-- ==== Sys2Proof/Word.lean ====
section
/-! DEFINITION. The word types of the part: 32-bit words and addresses, 64-bit beats (R147, R182). -/

namespace Sys2Proof

/-- A word is 32 bits (00_scope, "Numbers"). -/
abbrev Word := BitVec 32

/-- A byte address of the 32-bit map (R147). -/
abbrev Addr := BitVec 32

/-- A beat is one 64-bit data transfer (00_scope, "Numbers"). -/
abbrev Beat := BitVec 64

/-- An upstream transaction ID, presented as a 16-bit value (R147). -/
abbrev BusId := BitVec 16

/-- A step number, 0 to 8190, or 8191 for none (00_scope, "Step numbers"). -/
abbrev StepNo := BitVec 13

/-- A channel number, 0 to 7. -/
abbrev ChanNo := Fin 8

/-- A source number, 0 to 3. -/
abbrev SrcNo := Fin 4

/-- The step number that means none (R1). -/
def noStep : StepNo := 8191#13

/-- The board number that means no board (00_scope, "Board numbers"). -/
def noBoard : BitVec 16 := 65535#16

end Sys2Proof
end

