-- ==== Sys2Proof/Syntax.lean ====
section
/-! DEFINITION. The commands: one constructor for each row of spec/opcode_table.json, and the types of their operands.
The rows give no bits; the operands are what the rules make each step depend on. -/

namespace Sys2Proof

/-- AXI4 burst types (R163). -/
inductive BurstType where
  | fixed | incr | wrap
  deriving DecidableEq, Repr

/-- AXI4 responses (R116, R152, R161). -/
inductive Resp where
  | okay | exokay | slverr | decerr
  deriving DecidableEq, Repr

/-- The responses other than OKAY (R116). -/
inductive ErrResp where
  | exokay | slverr | decerr
  deriving DecidableEq, Repr

/-- The attributes that a forwarded burst keeps (R152). `user` is a number because the spec gives it no width
(log 24). -/
structure Attrs where
  lock   : Bool
  cache  : BitVec 4
  prot   : BitVec 3
  qos    : BitVec 4
  region : BitVec 4
  user   : Nat
  deriving DecidableEq, Repr

/-- The address phase of a burst, without its ID: first address, length (beats less one), size (the beat carries
2 to that power bytes, at most the 8 of the data path), burst type and attributes (R147, R163). -/
structure Burst where
  addr  : Addr
  len   : BitVec 8
  size  : Fin 4
  type  : BurstType
  attrs : Attrs
  deriving DecidableEq, Repr

/-- A burst offered at a port with its ID. -/
structure Offer where
  id    : BusId
  burst : Burst
  deriving DecidableEq, Repr

/-- The two forms of LIVE_WRITE: the acceptance of a live write burst's address, and the acceptance of one of its
data beats (R148, R154; log 16). -/
inductive LiveWrite where
  | address (offer : Offer)
  | beat (data : Beat) (strb : BitVec 8)
  deriving DecidableEq, Repr

/-- Whether a response answers a transaction issued since the last hardware reset or one issued before it, which is
discarded (R165; log 11). -/
inductive Issued where
  | sinceReset | beforeReset
  deriving DecidableEq, Repr

/-- The commands of the block, in the order of spec/opcode_table.json. -/
inductive Instr where
  /-- HARDWARE_RESET (R165). -/
  | hardwareReset
  /-- RESET_N_RELEASE (R166): the APBASE levels at the release. -/
  | resetNRelease (straps : BitVec 8)
  /-- TIMEBASE_INCREMENT (R35). -/
  | timebaseIncrement
  /-- DEADLINE_EXPIRY (R51). -/
  | deadlineExpiry (ch : ChanNo)
  /-- STEP_WORD_WRITE (R8): entry, word 0 to 6, value. -/
  | stepWordWrite (entry : Fin 8191) (word : Fin 7) (value : Word)
  /-- COMMIT (R9): entry, value of word 7. -/
  | commit (entry : Fin 8191) (value : Word)
  /-- ENTRY_8191_WRITE (R2): word 0 to 7, value. -/
  | entry8191Write (word : Fin 8) (value : Word)
  /-- PARTIAL_STROBE_WORD (R168): aperture offset of the word, its strobes, its bytes. -/
  | partialStrobeWord (offset : BitVec 20) (strb : BitVec 4) (value : Word)
  /-- UNASSIGNED_APERTURE_WRITE (R168): aperture offset of the word, value. -/
  | unassignedApertureWrite (offset : BitVec 20) (value : Word)
  /-- TIMEBASE_DIV_WRITE (R36). -/
  | timebaseDivWrite (value : Word)
  /-- LEARN_TARGET_WRITE (R89). -/
  | learnTargetWrite (value : Word)
  /-- NOTICE_ENABLE_WRITE (R179). -/
  | noticeEnableWrite (value : Word)
  /-- RING_LEVEL_WRITE (R121). -/
  | ringLevelWrite (value : Word)
  /-- RING_BASE_WRITE (R108). -/
  | ringBaseWrite (value : Word)
  /-- RING_SIZE_WRITE (R108). -/
  | ringSizeWrite (value : Word)
  /-- RING_PROD_ADDR_WRITE (R108). -/
  | ringProdAddrWrite (value : Word)
  /-- RING_ENABLE (R109): RING_CTRL with bit 0 set; the operand is bits 31:1. -/
  | ringEnable (high : BitVec 31)
  /-- RING_DISABLE (R110): RING_CTRL with bit 0 clear; the operand is bits 31:1. -/
  | ringDisable (high : BitVec 31)
  /-- BAND_T_WRITE (R76): threshold 0 to 2 for T1 to T3, value. -/
  | bandTWrite (threshold : Fin 3) (value : Word)
  /-- BAND_HYST_WRITE (R76). -/
  | bandHystWrite (value : Word)
  /-- RANGE_SHIFT_WRITE (R30): range code, value. -/
  | rangeShiftWrite (range : Fin 8) (value : Word)
  /-- COMP_WRITE (R68): kind, band, value. -/
  | compWrite (kind : Fin 6) (band : Fin 4) (value : Word)
  /-- SAMPLE_BASE_WRITE (R22). -/
  | sampleBaseWrite (ch : ChanNo) (value : Word)
  /-- SAMPLE_LEN_WRITE (R22). -/
  | sampleLenWrite (ch : ChanNo) (value : Word)
  /-- MON_BASE_WRITE (R125). -/
  | monBaseWrite (src : SrcNo) (value : Word)
  /-- MON_LEN_WRITE (R125). -/
  | monLenWrite (src : SrcNo) (value : Word)
  /-- I_LIMIT_WRITE (R130). -/
  | iLimitWrite (src : SrcNo) (value : Word)
  /-- V_LIMIT_WRITE (R130). -/
  | vLimitWrite (src : SrcNo) (value : Word)
  /-- P_LIMIT_WRITE (R130). -/
  | pLimitWrite (src : SrcNo) (value : Word)
  /-- PERIOD_WRITE (R130). -/
  | periodWrite (src : SrcNo) (value : Word)
  /-- GUARD_CTRL_WRITE (R130). -/
  | guardCtrlWrite (src : SrcNo) (value : Word)
  /-- MOVE_BASE_WRITE (R144). -/
  | moveBaseWrite (value : Word)
  /-- MOVE_LEN_WRITE (R144). -/
  | moveLenWrite (value : Word)
  /-- MOTION_ID_WRITE (R144). -/
  | motionIdWrite (value : Word)
  /-- MOTION_ID_MASK_WRITE (R144). -/
  | motionIdMaskWrite (value : Word)
  /-- HOLD_PATTERN_WRITE (R144). -/
  | holdPatternWrite (value : Word)
  /-- ARM (R41): channel, 24-bit argument. -/
  | arm (ch : ChanNo) (arg : BitVec 24)
  /-- ABORT (R43): channel, 24-bit argument, ignored. -/
  | abort (ch : ChanNo) (arg : BitVec 24)
  /-- CH_CMD_UNKNOWN (R40): channel, operation code other than 1 and 2, argument. -/
  | chCmdUnknown (ch : ChanNo) (op : BitVec 8) (arg : BitVec 24)
  /-- PLAN_RESET (R171): argument, ignored. -/
  | planReset (arg : BitVec 24)
  /-- PLAN_RESET_COMPLETION (R173): the response to the writer's write in flight that completes a pending reset. -/
  | planResetCompletion (resp : Resp) (issued : Issued)
  /-- BOARD_OPEN (R86): board number as the 24-bit argument. -/
  | boardOpen (arg : BitVec 24)
  /-- BOARD_CLOSE (R87): argument, ignored. -/
  | boardClose (arg : BitVec 24)
  /-- LEARN_CLEAR (R100): step number, or 0xFFFFFF for all. -/
  | learnClear (arg : BitVec 24)
  /-- GUARD_CLEAR (R137): source mask in bits 3:0. -/
  | guardClear (arg : BitVec 24)
  /-- DEV_CMD_UNKNOWN (R169): operation code 0 or 6 to 255, argument. -/
  | devCmdUnknown (op : BitVec 8) (arg : BitVec 24)
  /-- CONSUMER_WRITE (R118). -/
  | consumerWrite (value : Word)
  /-- TEMP_WRITE (R77). -/
  | tempWrite (value : Word)
  /-- INSPECT_WRITE (R15). -/
  | inspectWrite (value : Word)
  /-- LIVE_WRITE (R154). -/
  | liveWrite (event : LiveWrite)
  /-- LIVE_WRITE_RESPONSE (R154): the ID of the response that memory has waiting, if any (R158; log 10). -/
  | liveWriteResponse (memory : Option BusId)
  /-- LIVE_READ (R155). -/
  | liveRead (offer : Offer)
  /-- DEVICE_FLAGS_READ (R156). -/
  | deviceFlagsRead (offer : Offer)
  /-- HELD_READ (R141). -/
  | heldRead (offer : Offer)
  /-- FORWARDED_READ (R153): the downstream read address channel takes the waiting forwarded burst. -/
  | forwardedRead
  /-- READ_DATA_RETURN (R153): a read data beat of memory, with the low 16 bits of its ID. -/
  | readDataReturn (id : BusId) (data : Beat) (resp : Resp) (last : Bool) (issued : Issued)
  /-- PART_READ_BEATS_RETURN (R158): the ID of the beat that memory has waiting, if any (log 10). -/
  | partReadBeatsReturn (memory : Option BusId)
  /-- FORWARDED_WRITE_RESPONSE (R152): a response of memory with bit 16 of its ID clear; the low 16 bits. -/
  | forwardedWriteResponse (id : BusId) (resp : Resp) (issued : Issued)
  /-- DOWNSTREAM_WRITE_GRANT (R159): the forwarded address that was waiting when the grant was made, if any, and
  whether the grant was made before the writer's pending request (log 9). -/
  | downstreamWriteGrant (forwarded : Option Offer) (beforeWriter : Bool)
  /-- FORWARDED_WRITE_BEAT (R150). -/
  | forwardedWriteBeat (data : Beat) (strb : BitVec 8)
  /-- IN_SEQUENCE_SAMPLE (R24): a full word at the channel's cursor. -/
  | inSequenceSample (ch : ChanNo) (value : Word)
  /-- SAMPLE_STRAY (R25): word address, strobes, bytes. -/
  | sampleStray (ch : ChanNo) (addr : Addr) (strb : BitVec 4) (value : Word)
  /-- VOLTAGE_TAKEN (R127): a full voltage word at the source's cursor. -/
  | voltageTaken (src : SrcNo) (value : Word)
  /-- PAIR_ARRIVAL (R131): a full current word at the source's cursor. -/
  | pairArrival (src : SrcNo) (value : Word)
  /-- MONITOR_STRAY (R128): word address, strobes, bytes. -/
  | monitorStray (src : SrcNo) (addr : Addr) (strb : BitVec 4) (value : Word)
  /-- CHARGE_EXCESS (R135): channel, and the current of the pair that is metered into its run (log 12). -/
  | chargeExcess (ch : ChanNo) (current : Word)
  /-- RECORD_WRITE_BEGIN (R112). -/
  | recordWriteBegin
  /-- RECORD_WRITE_OKAY (R114). -/
  | recordWriteOkay (issued : Issued)
  /-- PUBLICATION (R115). -/
  | publication (issued : Issued)
  /-- WRITE_ERROR_RESPONSE (R116). -/
  | writeErrorResponse (resp : ErrResp) (issued : Issued)
  /-- FORWARDED_READ_ARRIVAL (R148). -/
  | forwardedReadArrival (offer : Offer)
  deriving DecidableEq, Repr

end Sys2Proof
end

