-- ==== Sys2Proof/Config.lean ====
section
/-! DEFINITION. What the part fixes, and the free values: what the spec leaves unstated about the bursts that the
verdict writer issues. A free value has no body; it is drawn with the counter `State.freeCount` (log 8). -/

namespace Sys2Proof.Config

/-- Entries that each outstanding list holds at most (R157). -/
def listCapacity : Nat := 32

/-- The part's reserved downstream ID (R147). -/
def reservedId : BitVec 17 := 0x10000#17

/-- Cache attribute of a burst of the writer. DESIGN CHOICE: the spec states none (log 8). -/
opaque writerCache : Nat → BitVec 4

/-- Protection attribute of a burst of the writer. DESIGN CHOICE: the spec states none (log 8). -/
opaque writerProt : Nat → BitVec 3

/-- Quality-of-service attribute of a burst of the writer. DESIGN CHOICE: the spec states none (log 8). -/
opaque writerQos : Nat → BitVec 4

/-- Region attribute of a burst of the writer. DESIGN CHOICE: the spec states none (log 8). -/
opaque writerRegion : Nat → BitVec 4

/-- User attribute of a burst of the writer. DESIGN CHOICE: the spec states none (log 8). -/
opaque writerUser : Nat → Nat

/-- Whether the producer-word beat is issued with the 64-bit size or the 32-bit size. R114 states a single beat with
four bytes enabled, which either size can carry. DESIGN CHOICE (log 8). -/
opaque producerWide : Nat → Bool

/-- Whether the single-beat producer-word burst is issued as a fixed burst or an incrementing one: the spec states
neither. DESIGN CHOICE (log 8). -/
opaque producerFixed : Nat → Bool

/-- What the four bytes of the producer-word beat that are not enabled carry. DESIGN CHOICE: the spec states
nothing (log 8). -/
opaque producerIdleHalf : Nat → Word

end Sys2Proof.Config
end

