-- ==== Sys2Proof/Machine/State.lean ====
section
/-! DEFINITION. The state of the part as plain data, and its value right after a hardware reset. -/

namespace Sys2Proof.Machine

open Sys2Proof

/-! ### Names of states, codes and outcomes -/

/-- Channel states (R39). -/
inductive ChState where
  | idle | seeking | settling | averaging | holding
  deriving DecidableEq, Repr

/-- Temperature bands A to D (R75). -/
inductive Band where
  | a | b | c | d
  deriving DecidableEq, Repr

/-- Limit modes (R3, 10.1). -/
inductive LimitMode where
  | fixed | learn | lowOnly | highOnly
  deriving DecidableEq, Repr

/-- Chain policies (R3); `code3` is the fourth value of the field (R183). -/
inductive ChainPolicy where
  | never | onPass | always | code3
  deriving DecidableEq, Repr

/-- Commit status of an entry (R9). -/
inductive CommitStatus where
  | never | committed | rejected
  deriving DecidableEq, Repr

/-- Last retry cause (R38, R50). -/
inductive RetryCause where
  | noRetry | lostContact | noisy | sequence
  deriving DecidableEq, Repr

/-- Result codes of channel commands and device commands (R38, R170, 10.7). -/
inductive ResultCode where
  | noResult | done | pending | busy | badArg | badState | badStep | invalidStep | guarded
  deriving DecidableEq, Repr

/-- The fourteen outcomes of a verdict (10.3). -/
inductive VerdictCode where
  | pass | low | high | learned | learnReject | noContact | lostContact | noisy | sequence | timeout | aborted
  | guard | charge | chainRefused
  deriving DecidableEq, Repr

/-- Writer states (R107). -/
inductive WriterState where
  | off | ready | writing | fault
  deriving DecidableEq, Repr

/-- Which write of the writer failed (R116, R120). -/
inductive FailedWrite where
  | noWrite | record | producerWord
  deriving DecidableEq, Repr

/-- The two writes of one verdict (R113, R114). -/
inductive WriteKind where
  | record | producerWord
  deriving DecidableEq, Repr

/-- Guard comparison modes (R130). -/
inductive GuardMode where
  | each | avg4
  deriving DecidableEq, Repr

/-- The two requesters of the downstream write address channel (R159). -/
inductive Requester where
  | forwarded | writer
  deriving DecidableEq, Repr

/-- Whom a shared upstream channel served last (R158). -/
inductive Served where
  | memory | part
  deriving DecidableEq, Repr

/-! ### The step table -/

/-- The fifteen host fields of a step entry, at the widths of their bit fields (R3, 10.1). -/
structure HostFields where
  kind        : BitVec 3
  source      : SrcNo
  limitMode   : LimitMode
  avgCode     : BitVec 4
  policy      : ChainPolicy
  contactRun  : BitVec 4
  retryLimit  : BitVec 3
  settle      : BitVec 8
  nextStep    : BitVec 16
  timeLimit   : BitVec 16
  lowLimit    : Word
  highLimit   : Word
  spreadLimit : Word
  tolerance   : Word
  learnFloor  : Word
  budget      : Word
  deriving DecidableEq, Repr

/-- Host fields after hardware reset (R18). -/
def HostFields.reset : HostFields :=
  { kind := 0, source := 0, limitMode := .fixed, avgCode := 0, policy := .never, contactRun := 0, retryLimit := 0,
    settle := 0, nextStep := 0, timeLimit := 0, lowLimit := 0, highLimit := 0, spreadLimit := 0, tolerance := 0,
    learnFloor := 0, budget := 0 }

/-- The learn record of an entry (R13). -/
structure LearnRecord where
  count       : Nat
  lastBoard   : BitVec 16
  least       : Word
  greatest    : Word
  sum         : BitVec 40
  derived     : Bool
  derivedLow  : Word
  derivedHigh : Word
  deriving DecidableEq, Repr

/-- The cleared learn record (R13). -/
def LearnRecord.cleared : LearnRecord :=
  { count := 0, lastBoard := noBoard, least := 0, greatest := 0, sum := 0, derived := false, derivedLow := 0,
    derivedHigh := 0 }

/-- A step entry: host fields and part-owned fields (R3, R7, R9, R12, R13). -/
structure Entry where
  host       : HostFields
  valid      : Bool
  status     : CommitStatus
  generation : BitVec 8
  runs       : Nat
  learn      : LearnRecord
  deriving DecidableEq, Repr

/-- An entry after hardware reset (R18). -/
def Entry.reset : Entry :=
  { host := .reset, valid := false, status := .never, generation := 0, runs := 0, learn := .cleared }

/-- The step table, sparse: step numbers strictly rising, no entry equal to `Entry.reset`, which is what a step that is
not listed holds. -/
abbrev Table := List (Nat × Entry)

/-! ### Taps and channels -/

/-- A sample tap (R21, R23). -/
structure Tap where
  base   : Addr
  len    : BitVec 16
  cursor : Addr
  deriving DecidableEq, Repr

/-- The snapshot that a run works from (R10). -/
structure Snapshot where
  step       : StepNo
  host       : HostFields
  generation : BitVec 8
  deriving DecidableEq, Repr

/-- A verdict record as built at the end of a run or at a refused chain (R54, R59); the writer adds the sequence
(R103). -/
structure Verdict where
  step    : StepNo
  channel : ChanNo
  outcome : VerdictCode
  retries : BitVec 3
  band    : Band
  stale   : Bool
  repeated : Bool
  noBoard : Bool
  carried : Bool
  board   : BitVec 16
  value   : Word
  spread  : BitVec 16
  elapsed : BitVec 16
  deriving DecidableEq, Repr

/-- A channel context (R38). -/
structure Channel where
  state           : ChState
  step            : StepNo
  snapshot        : Option Snapshot
  runStart        : BitVec 32
  deadline        : Option (BitVec 32)
  touchRun        : Nat
  contactSeen     : Bool
  settleLeft      : Nat
  averaged        : Nat
  sum             : BitVec 40
  least           : Word
  greatest        : Word
  firstRange      : Option (BitVec 3)
  latchedBand     : Band
  retries         : BitVec 3
  lastRetry       : RetryCause
  charge          : BitVec 48
  chainSuppressed : Bool
  carried         : Bool
  touchHeld       : Bool
  held            : Option Verdict
  lastResult      : ResultCode
  deriving DecidableEq, Repr

/-- A channel context after hardware reset (R63, R64). `runStart` is DESIGN CHOICE 0: no rule gives it (log 6). -/
def Channel.reset : Channel :=
  { state := .idle, step := noStep, snapshot := none, runStart := 0, deadline := none, touchRun := 0,
    contactSeen := false, settleLeft := 0, averaged := 0, sum := 0, least := 0, greatest := 0, firstRange := none,
    latchedBand := .a, retries := 0, lastRetry := .noRetry, charge := 0, chainSuppressed := false, carried := false,
    touchHeld := false, held := none, lastResult := .noResult }

/-- The band selector (R75). -/
structure BandSelector where
  current   : Band
  last      : BitVec 16
  noTempYet : Bool
  t1        : BitVec 16
  t2        : BitVec 16
  t3        : BitVec 16
  hyst      : BitVec 8
  deriving DecidableEq, Repr

/-! ### The verdict writer -/

/-- How far the writer's write has got: it requests the write address channel (`fresh` while no grant has completed
since the request), or its address is taken and its data wait behind `ahead` forwarded bursts granted before it, or its
data are sent and its response is awaited (R159, R160). -/
inductive WritePhase where
  | request (fresh : Bool)
  | data (ahead : Nat)
  | response
  deriving DecidableEq, Repr

/-- The writer's one write in flight: which write, where, with what beats and strobes (R112 to R114). -/
structure Flight where
  kind  : WriteKind
  addr  : Addr
  beats : List (Beat × BitVec 8)
  phase : WritePhase
  deriving DecidableEq, Repr

/-- The verdict writer (R107, R108, R111, R120, R121). -/
structure Writer where
  state        : WriterState
  ringBase     : Word
  sizeCode     : BitVec 4
  prodAddr     : Addr
  ringLevel    : BitVec 16
  producer     : BitVec 16
  consumer     : BitVec 16
  failed       : FailedWrite
  failResponse : Option ErrResp
  flight       : Option Flight
  deriving DecidableEq, Repr

/-! ### The stimulus guard -/

/-- A set of trip kinds (R132). -/
structure TripSet where
  overI : Bool
  overV : Bool
  overP : Bool
  deriving DecidableEq, Repr

/-- A monitor pair: voltage word and current word (10.2). -/
structure Pair where
  voltage : Word
  current : Word
  deriving DecidableEq, Repr

/-- A stimulus source with its monitor tap (R125, R126, R130, R131, R133, R138). -/
structure Source where
  base       : Addr
  len        : BitVec 16
  cursor     : Addr
  half       : Option Word
  iLimit     : Word
  vLimit     : Word
  pLimit     : Word
  period     : BitVec 16
  mode       : GuardMode
  holdEnable : Bool
  history    : List Pair
  trips      : TripSet
  seqInd     : Bool
  deriving DecidableEq, Repr

/-- The empty trip set. -/
def TripSet.empty : TripSet := { overI := false, overV := false, overP := false }

/-- A source after hardware reset (R146). -/
def Source.reset : Source :=
  { base := 0, len := 0, cursor := 0, half := none, iLimit := 0, vLimit := 0, pLimit := 0, period := 0, mode := .each,
    holdEnable := false, history := [], trips := .empty, seqInd := false }

/-- The move window, the motion master's ID and the hold pattern (R140, R141). -/
structure MoveWindow where
  base    : Addr
  len     : Word
  id      : BitVec 16
  mask    : BitVec 16
  pattern : Word
  deriving DecidableEq, Repr

/-! ### The control aperture -/

/-- The seven device flags (R175). -/
structure DeviceFlags where
  apertureMisuse  : Bool
  configRefused   : Bool
  commitRejected  : Bool
  bandConfig      : Bool
  monSequence     : Bool
  consumerRefused : Bool
  drained         : Bool
  deriving DecidableEq, Repr

/-- No flag set. -/
def DeviceFlags.clear : DeviceFlags :=
  { apertureMisuse := false, configRefused := false, commitRejected := false, bandConfig := false,
    monSequence := false, consumerRefused := false, drained := false }

/-- The notice enables (R179), and also the four notice causes (R180). -/
structure Causes where
  ring        : Bool
  guard       : Bool
  writerFault : Bool
  flags       : Bool
  deriving DecidableEq, Repr

/-! ### The transaction path -/

/-- The kind of an outstanding read entry with what it carries (R157): a forwarded burst, and whether the downstream
channel has taken it; the values of a live read; the pattern of a held read. -/
inductive ReadKind where
  | forwarded (taken : Bool)
  | live (values : List Beat)
  | held (pattern : Word)
  deriving DecidableEq, Repr

/-- An entry of the outstanding read list (R157). -/
structure ReadEntry where
  id    : BusId
  burst : Burst
  kind  : ReadKind
  deriving DecidableEq, Repr

/-- The kind of an outstanding write entry; a live burst remembers whether it has raised APERTURE_MISUSE, which it
does once (R154, R175). -/
inductive WriteEntryKind where
  | forwarded
  | live (flagged : Bool)
  deriving DecidableEq, Repr

/-- An entry of the outstanding write list, with the number of its data beats that have arrived (R154, R157). -/
structure WriteEntry where
  id      : BusId
  burst   : Burst
  kind    : WriteEntryKind
  arrived : Nat
  deriving DecidableEq, Repr

/-- One transfer that the part puts on a port. `downWord` is a word that a command on one word forwards to memory with
its strobes (log 1). -/
inductive PortTransfer where
  | downWriteAddr (id : BitVec 17) (burst : Burst)
  | downWriteBeat (data : Beat) (strb : BitVec 8) (last : Bool)
  | downReadAddr (id : BitVec 17) (burst : Burst)
  | upReadBeat (id : BusId) (data : Beat) (resp : Resp) (last : Bool)
  | upWriteResp (id : BusId) (resp : Resp)
  | downWord (addr : Addr) (strb : BitVec 4) (value : Word)
  deriving DecidableEq, Repr

/-! ### The whole state -/

/-- The state of the part. `pending`, `trace` and `freeCount` are the model's own fields (log 7, log 8, log 18). -/
structure State where
  pending      : List Instr
  trace        : List PortTransfer
  freeCount    : Nat
  resetN       : Bool
  apBase       : BitVec 8
  timebase     : BitVec 32
  timebaseDiv  : BitVec 10
  divCount     : Nat
  table        : Table
  inspect      : StepNo
  taps         : Vector Tap 8
  chans        : Vector Channel 8
  rangeShift   : Vector (BitVec 3) 8
  comp         : Vector Word 24
  learnTarget  : BitVec 4
  band         : BandSelector
  writer       : Writer
  queue        : List ChanNo
  srcs         : Vector Source 4
  move         : MoveWindow
  boardOpen    : Bool
  board        : BitVec 16
  devResult    : ResultCode
  resetPending : Bool
  flags        : DeviceFlags
  notice       : Causes
  reads        : List ReadEntry
  writes       : List WriteEntry
  lastGrant    : Requester
  servedRead   : Served
  servedResp   : Served
  deriving DecidableEq, Repr

/-- The writer after hardware reset (R123). -/
def Writer.reset : Writer :=
  { state := .off, ringBase := 0, sizeCode := 4, prodAddr := 0, ringLevel := 0, producer := 0, consumer := 0,
    failed := .noWrite, failResponse := none, flight := none }

/-- The machine right after a hardware reset, RESET_N released (R18, R33, R35, R36, R64, R83, R85, R89, R123, R146, R165,
R170, R175, R179). The strap levels are DESIGN CHOICE all low (log 5). -/
def State.reset : State :=
  { pending := [], trace := [], freeCount := 0, resetN := true, apBase := 0, timebase := 0, timebaseDiv := 100,
    divCount := 0, table := [], inspect := 0,
    taps := Vector.replicate 8 { base := 0, len := 0, cursor := 0 },
    chans := Vector.replicate 8 .reset,
    rangeShift := Vector.replicate 8 0, comp := Vector.replicate 24 0, learnTarget := 3,
    band := { current := .a, last := 0, noTempYet := true, t1 := 0, t2 := 0, t3 := 0, hyst := 0 },
    writer := .reset, queue := [], srcs := Vector.replicate 4 .reset,
    move := { base := 0, len := 0, id := 0, mask := 0, pattern := 0 },
    boardOpen := false, board := noBoard, devResult := .noResult, resetPending := false, flags := .clear,
    notice := { ring := false, guard := false, writerFault := false, flags := false },
    reads := [], writes := [], lastGrant := .forwarded, servedRead := .part, servedResp := .part }

/-! ### How a step can stop -/

/-- No command of the part ends in a fault: the spec reports every error in state (flags, result codes, verdicts, the
writer's FAULT), so this type has no constructor and no one raises one. Safe. -/
inductive Fault where
  deriving DecidableEq, Repr

/-- Why a command is refused by the model. -/
inductive Refusal where
  /-- Raised by an arm of `exec` whose command has no meaning yet; no arm does. Safe: the model stops. -/
  | notModelled (mnemonic : String)
  deriving DecidableEq, Repr

/-- What a command answers. -/
abbrev Result := Host.Outcome State Fault Refusal

end Sys2Proof.Machine
end

