-- ==== Sys2Proof/Machine/Operands.lean ====
section
/-! DEFINITION. Operand forms: the addresses and byte lanes of a burst's beats, the areas and words of the aperture, and
the fields of the words the part takes (R149, R163, R182, chapter 10). -/

namespace Sys2Proof.Machine

open Sys2Proof

/-! ### Bursts (R163) -/

/-- Number of data beats. -/
def Burst.beats (b : Burst) : Nat := b.len.toNat + 1

/-- Bytes that one beat of the burst's size carries. -/
def Burst.bytes (b : Burst) : Nat := 2 ^ b.size.val

/-- Address of beat `i`, counted from 0 (R163). DESIGN CHOICE: a burst that runs past 0xFFFFFFFF, which AXI4 forbids and of
which the spec says nothing, continues from address 0, modulo 2^32 (log 27). -/
def Burst.beatAddr (b : Burst) (i : Nat) : Addr :=
  let first := b.addr.toNat
  let size := Burst.bytes b
  match b.type with
  | .fixed => b.addr
  | .incr => if i = 0 then b.addr else BitVec.ofNat 32 (first / size * size + i * size)
  | .wrap =>
    let block := Burst.beats b * size
    let start := first / block * block
    BitVec.ofNat 32 (start + (first - start + i * size) % block)

/-- The aligned doubleword that holds an address. -/
def dwordOf (a : Addr) : Addr := a &&& 0xFFFFFFF8#32

/-- The aligned word that holds an address. -/
def wordOf (a : Addr) : Addr := a &&& 0xFFFFFFFC#32

/-- Byte lanes of beat `i` in its doubleword: from its address up to the next multiple of its size (R163). -/
def Burst.lanes (b : Burst) (i : Nat) : BitVec 8 :=
  let off := (Burst.beatAddr b i).toNat % 8
  let size := Burst.bytes b
  BitVec.ofNat 8 (2 ^ (off / size * size + size) - 2 ^ off)

/-- The lower four byte lanes of a beat: the strobes of its lower-addressed word (R182). -/
def lowStrobes (m : BitVec 8) : BitVec 4 := m.extractLsb' 0 4

/-- The upper four byte lanes of a beat: the strobes of its higher-addressed word (R182). -/
def highStrobes (m : BitVec 8) : BitVec 4 := m.extractLsb' 4 4

/-- The lower-addressed word of a beat (R182). -/
def lowWord (d : Beat) : Word := d.extractLsb' 0 32

/-- The higher-addressed word of a beat (R182). -/
def highWord (d : Beat) : Word := d.extractLsb' 32 32

/-- A beat of two words, the lower-addressed in the low half (R182). -/
def beatOf (low high : Word) : Beat := high ++ low

/-- A full word has all four bytes enabled (R5). -/
def fullStrobe (strb : BitVec 4) : Bool := strb == 0xF#4

/-- An absent word has no byte enabled (R5). -/
def absentStrobe (strb : BitVec 4) : Bool := strb == 0#4

/-- A partial-strobe word has one to three bytes enabled (R5, R168). -/
def partialStrobe (strb : BitVec 4) : Bool := !fullStrobe strb && !absentStrobe strb

/-! ### The aperture (R149, R166) -/

/-- The five parts of the aperture (R149). -/
inductive Area where
  | step | config | command | live | passThrough
  deriving DecidableEq, Repr

/-- The part of the aperture that holds an aperture offset (R149). -/
def areaOf (offset : Nat) : Area :=
  if offset < 0x40000 then .step
  else if offset < 0x41000 then .config
  else if offset < 0x42000 then .command
  else if offset < 0x42100 then .live
  else .passThrough

/-- The aperture base that the straps select: address bits 27:20 (R166). -/
def apertureBase (straps : BitVec 8) : Addr := straps.setWidth 32 <<< 20

/-- The aperture offset of an address that lies in the aperture (R149). -/
def apertureOffset (straps : BitVec 8) (a : Addr) : Option Nat :=
  if a.toNat / 0x100000 = straps.toNat then some (a.toNat % 0x100000) else none

/-- The address of an aperture offset. -/
def apertureAddr (straps : BitVec 8) (offset : Nat) : Addr := apertureBase straps + BitVec.ofNat 32 offset

/-- Whether an address lies in the live area. -/
def inLiveArea (straps : BitVec 8) (a : Addr) : Bool :=
  match apertureOffset straps a with
  | some off => areaOf off == .live
  | none => false

/-- Whether an address lies in the step, configuration or command area (R140, R151). -/
def inWordArea (straps : BitVec 8) (a : Addr) : Bool :=
  match apertureOffset straps a with
  | some off => areaOf off == .step || areaOf off == .config || areaOf off == .command
  | none => false

/-- Whether some beat of a burst lies in the live area (R151, R154). -/
def Burst.touchesLive (straps : BitVec 8) (b : Burst) : Bool :=
  (List.range (Burst.beats b)).any fun i => inLiveArea straps (Burst.beatAddr b i)

/-- Whether some beat of a burst has byte lanes that include a byte of DEVICE_FLAGS, at aperture offset 0x42000
(R156). -/
def Burst.coversFlags (straps : BitVec 8) (b : Burst) : Bool :=
  (List.range (Burst.beats b)).any fun i =>
    dwordOf (Burst.beatAddr b i) == apertureAddr straps 0x42000 && lowStrobes (Burst.lanes b i) != 0#4

/-- Aperture offset of word `k` of entry `n` (R1). -/
def stepOffset (n k : Nat) : Nat := n * 32 + k * 4

/-! ### Configuration and command words (10.5, 10.6) -/

/-- The assigned words of the configuration area (10.5). -/
inductive ConfigWord where
  | timebaseDiv | learnTarget | noticeEnable | ringLevel | ringBase | ringSize | ringProdAddr | ringCtrl
  | bandT (i : Fin 3) | bandHyst | rangeShift (r : Fin 8) | comp (k : Fin 6) (b : Fin 4)
  | sampleBase (ch : ChanNo) | sampleLen (ch : ChanNo)
  | monBase (src : SrcNo) | monLen (src : SrcNo) | iLimit (src : SrcNo) | vLimit (src : SrcNo) | pLimit (src : SrcNo)
  | period (src : SrcNo) | guardCtrl (src : SrcNo)
  | moveBase | moveLen | motionId | motionIdMask | holdPattern
  deriving DecidableEq, Repr

/-- Aperture offset of a configuration word (10.5). -/
def ConfigWord.offset : ConfigWord → Nat
  | .timebaseDiv => 0x40000
  | .learnTarget => 0x40004
  | .noticeEnable => 0x40008
  | .ringLevel => 0x4000C
  | .ringBase => 0x40010
  | .ringSize => 0x40014
  | .ringProdAddr => 0x40018
  | .ringCtrl => 0x4001C
  | .bandT i => 0x40020 + i.val * 4
  | .bandHyst => 0x4002C
  | .rangeShift r => 0x40040 + r.val * 4
  | .comp k b => 0x40080 + (k.val * 4 + b.val) * 4
  | .sampleBase ch => 0x40100 + ch.val * 8
  | .sampleLen ch => 0x40104 + ch.val * 8
  | .monBase src => 0x40180 + src.val * 32
  | .monLen src => 0x40184 + src.val * 32
  | .iLimit src => 0x40188 + src.val * 32
  | .vLimit src => 0x4018C + src.val * 32
  | .pLimit src => 0x40190 + src.val * 32
  | .period src => 0x40194 + src.val * 32
  | .guardCtrl src => 0x40198 + src.val * 32
  | .moveBase => 0x40200
  | .moveLen => 0x40204
  | .motionId => 0x40208
  | .motionIdMask => 0x4020C
  | .holdPattern => 0x40210

/-- The seven words of a source, by their place after MON_BASE (10.5). -/
def sourceWord (src : SrcNo) : Nat → Option ConfigWord
  | 0 => some (.monBase src)
  | 1 => some (.monLen src)
  | 2 => some (.iLimit src)
  | 3 => some (.vLimit src)
  | 4 => some (.pLimit src)
  | 5 => some (.period src)
  | 6 => some (.guardCtrl src)
  | _ => none

/-- The configuration word of a number, counted in words from the start of the configuration area, or none where none is
assigned (10.5, R168). -/
def configWordNumber (w : Nat) : Option ConfigWord :=
  match w with
  | 0 => some .timebaseDiv
  | 1 => some .learnTarget
  | 2 => some .noticeEnable
  | 3 => some .ringLevel
  | 4 => some .ringBase
  | 5 => some .ringSize
  | 6 => some .ringProdAddr
  | 7 => some .ringCtrl
  | 11 => some .bandHyst
  | 128 => some .moveBase
  | 129 => some .moveLen
  | 130 => some .motionId
  | 131 => some .motionIdMask
  | 132 => some .holdPattern
  | _ =>
    if h : 8 ≤ w ∧ w < 11 then some (.bandT ⟨w - 8, by omega⟩)
    else if h : 16 ≤ w ∧ w < 24 then some (.rangeShift ⟨w - 16, by omega⟩)
    else if h : 32 ≤ w ∧ w < 56 then some (.comp ⟨(w - 32) / 4, by omega⟩ ⟨(w - 32) % 4, by omega⟩)
    else if h : 64 ≤ w ∧ w < 80 then
      if w % 2 = 0 then some (.sampleBase ⟨(w - 64) / 2, by omega⟩) else some (.sampleLen ⟨(w - 64) / 2, by omega⟩)
    else if h : 96 ≤ w ∧ w < 128 then sourceWord ⟨(w - 96) / 8, by omega⟩ ((w - 96) % 8)
    else none

/-- The configuration word at a word-aligned aperture offset of the configuration area (10.5). -/
def configWordAt (offset : Nat) : Option ConfigWord := configWordNumber (offset % 0x1000 / 4)

/-- The words of the command area (10.6). -/
inductive CommandWord where
  | chCmd (ch : ChanNo) | devCmd | consumer | temp | inspect
  deriving DecidableEq, Repr

/-- Aperture offset of a command word (10.6). -/
def CommandWord.offset : CommandWord → Nat
  | .chCmd ch => 0x41000 + ch.val * 4
  | .devCmd => 0x41020
  | .consumer => 0x41024
  | .temp => 0x41028
  | .inspect => 0x4102C

/-- The command word of a number, counted in words from the start of the command area, or none (10.6, R168). -/
def commandWordNumber (w : Nat) : Option CommandWord :=
  if h : w < 8 then some (.chCmd ⟨w, h⟩)
  else match w with
    | 8 => some .devCmd
    | 9 => some .consumer
    | 10 => some .temp
    | 11 => some .inspect
    | _ => none

/-- The command word at a word-aligned aperture offset of the command area (10.6). -/
def commandWordAt (offset : Nat) : Option CommandWord := commandWordNumber (offset % 0x1000 / 4)

/-- Whether an aperture offset holds a word that a full-word write leaves without effect: an unassigned configuration
or command word, or the pass-through offsets (R168). -/
def unassignedOffset (offset : Nat) : Bool :=
  match areaOf offset with
  | .config => (configWordAt offset).isNone
  | .command => (commandWordAt offset).isNone
  | .passThrough => true
  | .step => false
  | .live => false

/-- Whether an aperture offset holds an aperture word (R167). -/
def apertureWordOffset (offset : Nat) : Bool :=
  match areaOf offset with
  | .config => true
  | .command => true
  | .step => true
  | .passThrough => false
  | .live => false

/-- Whether an offset and strobes name a partial-strobe word of the step, configuration or command area (R168). -/
def namesPartialWord (offset : Nat) (strb : BitVec 4) : Bool :=
  offset % 4 == 0 && apertureWordOffset offset && partialStrobe strb

/-- Whether an offset names a word that a full-word write leaves without effect (R168). -/
def namesUnassigned (offset : Nat) : Bool := offset % 4 == 0 && unassignedOffset offset

/-- Whether a channel operation code is unknown: neither ARM nor ABORT (R40). -/
def unknownChOp (op : BitVec 8) : Bool := op != 1#8 && op != 2#8

/-- Whether a device operation code is unknown: 0 or 6 to 255 (R169). -/
def unknownDevOp (op : BitVec 8) : Bool := op == 0#8 || decide (6 ≤ op.toNat)

/-- The word that a command word carries: operation code in bits 31:24, argument in bits 23:0 (10.4). -/
def commandValue (op : BitVec 8) (arg : BitVec 24) : Word := op ++ arg

/-- Operation code of a command word (10.4). -/
def opOf (v : Word) : BitVec 8 := v.extractLsb' 24 8

/-- Argument of a command word (10.4). -/
def argOf (v : Word) : BitVec 24 := v.extractLsb' 0 24

/-! ### Step entry words (10.1) -/

/-- Limit mode of its two bits (10.1). -/
def limitModeOf (x : BitVec 2) : LimitMode :=
  match x.toNat with
  | 0 => .fixed
  | 1 => .learn
  | 2 => .lowOnly
  | _ => .highOnly

/-- Chain policy of its two bits (10.1, R183). -/
def policyOf (x : BitVec 2) : ChainPolicy :=
  match x.toNat with
  | 0 => .never
  | 1 => .onPass
  | 2 => .always
  | _ => .code3

/-- A source number of its two bits (10.1). -/
def sourceOf (x : BitVec 2) : SrcNo := ⟨x.toNat, x.isLt⟩

/-- Word `k` of an entry taken into the host fields it carries; all fields of a packed word change together (R4,
10.1). -/
def HostFields.take (h : HostFields) (k : Nat) (v : Word) : HostFields :=
  match k with
  | 0 => { h with kind := v.extractLsb' 0 3, source := sourceOf (v.extractLsb' 3 2),
                  limitMode := limitModeOf (v.extractLsb' 5 2), avgCode := v.extractLsb' 8 4,
                  policy := policyOf (v.extractLsb' 12 2), contactRun := v.extractLsb' 16 4,
                  retryLimit := v.extractLsb' 20 3, settle := v.extractLsb' 24 8 }
  | 1 => { h with nextStep := v.extractLsb' 0 16, timeLimit := v.extractLsb' 16 16 }
  | 2 => { h with lowLimit := v }
  | 3 => { h with highLimit := v }
  | 4 => { h with spreadLimit := v }
  | 5 => { h with tolerance := v }
  | 6 => { h with learnFloor := v }
  | _ => { h with budget := v }

/-- The five checks of a commit (R9). -/
def HostFields.passesCommit (h : HostFields) : Bool :=
  decide (h.kind.toNat ≤ 5) && decide (h.avgCode.toNat ≤ 8) && decide (1 ≤ h.contactRun.toNat) &&
    decide (h.nextStep.toNat ≤ 8191) &&
    (match h.limitMode with
     | .fixed => decide (h.lowLimit.toInt ≤ h.highLimit.toInt)
     | .learn => decide (h.lowLimit.toInt ≤ h.highLimit.toInt)
     | .lowOnly => true
     | .highOnly => true)

/-- Samples that an average takes: 2 to the average code (R3). -/
def HostFields.samples (h : HostFields) : Nat := 2 ^ h.avgCode.toNat

/-! ### Sample words (R28, 10.2) -/

/-- Touch field of a sample word. -/
def sampleTouch (w : Word) : Bool := w.getLsbD 28

/-- Overload field of a sample word. -/
def sampleOverload (w : Word) : Bool := w.getLsbD 27

/-- Range code of a sample word. -/
def sampleRange (w : Word) : BitVec 3 := w.extractLsb' 24 3

/-- Value field of a sample word, signed 24 bits. -/
def sampleValue (w : Word) : Int := (w.extractLsb' 0 24).toInt

/-! ### Ring size -/

/-- Slots of the ring for a size code: 2 to the code (R108). -/
def ringSlots (code : BitVec 4) : Nat := 2 ^ code.toNat

end Sys2Proof.Machine
end

