-- ==== Sys2Proof/Machine/Flags.lean ====
section
/-! DEFINITION. Flag computations: raising a device flag, and the conditions that the part computes from its state, which
are the ring fill, the notice causes, NOTICE_N and motion hold (R111, R121, R139, R175, R180). -/

namespace Sys2Proof.Machine

open Sys2Proof

/-! ### Raising a device flag (R175) -/

/-- A change of the device flags. -/
def withFlags (f : DeviceFlags → DeviceFlags) (s : State) : State := { s with flags := f s.flags }

/-- Raise APERTURE_MISUSE. -/
def raiseMisuse (s : State) : State := withFlags (fun f => { f with apertureMisuse := true }) s

/-- Raise CONFIG_REFUSED. -/
def raiseConfigRefused (s : State) : State := withFlags (fun f => { f with configRefused := true }) s

/-- Raise COMMIT_REJECTED. -/
def raiseCommitRejected (s : State) : State := withFlags (fun f => { f with commitRejected := true }) s

/-- Raise BAND_CONFIG. -/
def raiseBandConfig (s : State) : State := withFlags (fun f => { f with bandConfig := true }) s

/-- Raise MON_SEQUENCE. -/
def raiseMonSequence (s : State) : State := withFlags (fun f => { f with monSequence := true }) s

/-- Raise CONSUMER_REFUSED. -/
def raiseConsumerRefused (s : State) : State := withFlags (fun f => { f with consumerRefused := true }) s

/-- Raise DRAINED. -/
def raiseDrained (s : State) : State := withFlags (fun f => { f with drained := true }) s

/-- Whether any flag is set (R180). -/
def DeviceFlags.any (f : DeviceFlags) : Bool :=
  f.apertureMisuse || f.configRefused || f.commitRejected || f.bandConfig || f.monSequence || f.consumerRefused ||
    f.drained

/-! ### Conditions computed from the state -/

/-- The fill: visible records that the software has not consumed (R111). -/
def Writer.fill (w : Writer) : Nat := (w.producer - w.consumer).toNat

/-- The ring size N in force (R108). -/
def Writer.slots (w : Writer) : Nat := ringSlots w.sizeCode

/-- The ring level reached condition (R121). -/
def Writer.levelReached (w : Writer) : Bool := w.ringLevel != 0#16 && decide (w.ringLevel.toNat ≤ Writer.fill w)

/-- Whether a latched trip set is non-empty (R133). -/
def TripSet.nonempty (t : TripSet) : Bool := t.overI || t.overV || t.overP

/-- A source of the state. -/
def State.src (s : State) (i : SrcNo) : Source := s.srcs[i.val]'i.isLt

/-- All sources, in ascending order. -/
def allSources : List SrcNo := [0, 1, 2, 3]

/-- All channels, in ascending order. -/
def allChannels : List ChanNo := [0, 1, 2, 3, 4, 5, 6, 7]

/-- Whether any source's latched trip set is non-empty (R180). -/
def State.anyTrip (s : State) : Bool := allSources.any fun i => TripSet.nonempty (State.src s i).trips

/-- Holding motion of one source: hold enable and a non-empty set (R138). -/
def Source.holdsMotion (r : Source) : Bool := r.holdEnable && TripSet.nonempty r.trips

/-- Motion hold is engaged while some source has hold enable and a non-empty latched set (R139; log 20). -/
def State.holdEngaged (s : State) : Bool := allSources.any fun i => Source.holdsMotion (State.src s i)

/-- The four notice causes (R180). -/
def State.causes (s : State) : Causes :=
  { ring := Writer.levelReached s.writer, guard := State.anyTrip s, writerFault := s.writer.state == .fault,
    flags := DeviceFlags.any s.flags }

/-- NOTICE_N is driven low while a cause holds whose enable is set (R180; log 20). -/
def State.noticeAsserted (s : State) : Bool :=
  let c := State.causes s
  (c.ring && s.notice.ring) || (c.guard && s.notice.guard) || (c.writerFault && s.notice.writerFault) ||
    (c.flags && s.notice.flags)

end Sys2Proof.Machine
end

