-- ==== Sys2Proof/Machine/Ops.lean ====
section
/-! DEFINITION. Shared operations over the state: the step table, channels and sources, the verdict record, the hold queue
and the start of a write, and the start and the end of a run. -/

namespace Sys2Proof.Machine

open Sys2Proof

/-! ### The step table -/

/-- The entry of step `n`; a step that is not listed holds its reset values. -/
def Table.get : Table → Nat → Entry
  | [], _ => Entry.reset
  | (m, e) :: rest, n => if m = n then e else Table.get rest n

/-- Put an entry at the head of a table, or leave it out where it equals the reset values. -/
def Table.consEntry (n : Nat) (e : Entry) (t : Table) : Table := if e = Entry.reset then t else (n, e) :: t

/-- A table without step `n`. -/
def Table.erase (n : Nat) : Table → Table
  | [] => []
  | (m, d) :: rest => if m = n then Table.erase n rest else (m, d) :: Table.erase n rest

/-- An entry put at its place in the order of step numbers. -/
def Table.insert (n : Nat) (e : Entry) : Table → Table
  | [] => [(n, e)]
  | (m, d) :: rest => if n < m then (n, e) :: (m, d) :: rest else (m, d) :: Table.insert n e rest

/-- Set the entry of step `n`, keeping the canonical form. -/
def Table.set (t : Table) (n : Nat) (e : Entry) : Table :=
  if e = Entry.reset then Table.erase n t else Table.insert n e (Table.erase n t)

/-- Apply a change to every entry, keeping the canonical form. The change must keep `Entry.reset`. -/
def Table.mapAll (f : Entry → Entry) : Table → Table
  | [] => []
  | (n, e) :: rest => Table.consEntry n (f e) (Table.mapAll f rest)

/-- The canonical form from a lower bound on: keys at least `low`, strictly rising, and no entry equal to the reset
values. -/
def Table.wfFrom : Nat → Table → Bool
  | _, [] => true
  | low, (n, e) :: rest => decide (low ≤ n) && decide (e ≠ Entry.reset) && Table.wfFrom (n + 1) rest

/-- The canonical form of a table. -/
def Table.wf (t : Table) : Bool := Table.wfFrom 0 t

/-- The part's copy of the entry of step `n`. -/
def State.entry (s : State) (n : Nat) : Entry := Table.get s.table n

/-- Set the entry of step `n`. -/
def State.setEntry (s : State) (n : Nat) (e : Entry) : State := { s with table := Table.set s.table n e }

/-! ### Channels, taps and sources -/

/-- A channel context. -/
def State.ch (s : State) (i : ChanNo) : Channel := s.chans[i.val]'i.isLt

/-- Set a channel context. -/
def State.setCh (s : State) (i : ChanNo) (c : Channel) : State := { s with chans := s.chans.set i.val c i.isLt }

/-- A sample tap. -/
def State.tap (s : State) (i : ChanNo) : Tap := s.taps[i.val]'i.isLt

/-- Set a sample tap. -/
def State.setTap (s : State) (i : ChanNo) (t : Tap) : State := { s with taps := s.taps.set i.val t i.isLt }

/-- Set a source. -/
def State.setSrc (s : State) (i : SrcNo) (r : Source) : State := { s with srcs := s.srcs.set i.val r i.isLt }

/-- Apply a change to every channel. -/
def mapChannels (f : Channel → Channel) (v : Vector Channel 8) : Vector Channel 8 :=
  #v[f v[0], f v[1], f v[2], f v[3], f v[4], f v[5], f v[6], f v[7]]

/-- Apply a change to every tap. -/
def mapTaps (f : Tap → Tap) (v : Vector Tap 8) : Vector Tap 8 :=
  #v[f v[0], f v[1], f v[2], f v[3], f v[4], f v[5], f v[6], f v[7]]

/-- Apply a change to every source. -/
def mapSources (f : Source → Source) (v : Vector Source 4) : Vector Source 4 := #v[f v[0], f v[1], f v[2], f v[3]]

/-- A run is in flight in SEEKING, SETTLING and AVERAGING (R39). -/
def Channel.inFlight (c : Channel) : Bool :=
  match c.state with
  | .seeking => true
  | .settling => true
  | .averaging => true
  | .idle => false
  | .holding => false

/-- A channel is IDLE. -/
def Channel.isIdle (c : Channel) : Bool := c.state == .idle

/-- Every channel is IDLE (R30, R89). -/
def State.allIdle (s : State) : Bool := allChannels.all fun i => Channel.isIdle (s.ch i)

/-- Every channel is IDLE and the hold queue is empty: the quiet condition of the board commands (R86, R87) and of
DRAINED (R177). -/
def State.quiet (s : State) : Bool := s.allIdle && s.queue.isEmpty

/-- A run in flight on a source: the snapshot's source is that source (R61, R133). -/
def Channel.boundTo (c : Channel) (src : SrcNo) : Bool :=
  Channel.inFlight c &&
    (match c.snapshot with
     | some sn => sn.host.source == src
     | none => false)

/-! ### What the part puts on its ports -/

/-- Put a transfer on a port. -/
def emit (p : PortTransfer) (s : State) : State := { s with trace := s.trace ++ [p] }

/-- Forward a word of the aperture to memory (R4, R167). -/
def forwardOffset (offset : Nat) (strb : BitVec 4) (v : Word) (s : State) : State :=
  emit (.downWord (apertureAddr s.apBase offset) strb v) s

/-- Forward a word at an address to memory (R24, R129, R150). -/
def forwardAddr (addr : Addr) (strb : BitVec 4) (v : Word) (s : State) : State := emit (.downWord addr strb v) s

/-- While RESET_N is low the part takes nothing (R165; log 17). -/
def whileUp (f : State → State) (s : State) : State := if s.resetN then f s else s

/-! ### The verdict record (10.3) -/

/-- The code of a band (10.3). -/
def Band.code : Band → Nat
  | .a => 0
  | .b => 1
  | .c => 2
  | .d => 3

/-- The code of an outcome (10.3). -/
def VerdictCode.code : VerdictCode → Nat
  | .pass => 0
  | .low => 1
  | .high => 2
  | .learned => 3
  | .learnReject => 4
  | .noContact => 5
  | .lostContact => 6
  | .noisy => 7
  | .sequence => 8
  | .timeout => 9
  | .aborted => 10
  | .guard => 11
  | .charge => 12
  | .chainRefused => 13

/-- A field placed with its lowest bit at bit `low` of a word. -/
def field (low x : Nat) : Word := BitVec.ofNat 32 x <<< low

/-- A one-bit field at bit `low` of a word. -/
def flagBit (low : Nat) (b : Bool) : Word := field low b.toNat

/-- Word 0 of a verdict record: sequence and board (10.3). -/
def Verdict.word0 (v : Verdict) (sequence : BitVec 16) : Word := v.board ++ sequence

/-- Word 1 of a verdict record (10.3). -/
def Verdict.word1 (v : Verdict) : Word :=
  field 0 v.step.toNat ||| field 13 v.channel.val ||| field 16 (VerdictCode.code v.outcome) |||
    field 20 v.retries.toNat ||| field 24 (Band.code v.band) ||| flagBit 26 v.stale ||| flagBit 27 v.repeated |||
    flagBit 28 v.noBoard ||| flagBit 29 v.carried

/-- Word 2 of a verdict record: the value (10.3). -/
def Verdict.word2 (v : Verdict) : Word := v.value

/-- Word 3 of a verdict record: spread and elapsed (10.3). -/
def Verdict.word3 (v : Verdict) : Word := v.elapsed ++ v.spread

/-- The two beats of a record write, every byte enabled (R113, 10.3). -/
def Verdict.beats (v : Verdict) (sequence : BitVec 16) : List (Beat × BitVec 8) :=
  [(beatOf (Verdict.word0 v sequence) (Verdict.word1 v), 0xFF#8),
   (beatOf (Verdict.word2 v) (Verdict.word3 v), 0xFF#8)]

/-- A count saturated to 16 bits (R54). -/
def saturate16 (n : Nat) : BitVec 16 := BitVec.ofNat 16 (min n 65535)

/-- The board field of a record: the open board's number, or 65535 (R54, R59). -/
def State.boardField (s : State) : BitVec 16 := if s.boardOpen then s.board else noBoard

/-! ### The hold queue and the start of a write -/

/-- Address of the slot of an index (R111). -/
def Writer.slotAddr (w : Writer) (index : BitVec 16) : Addr :=
  w.ringBase + BitVec.ofNat 32 (index.toNat % Writer.slots w * 16)

/-- The writer begins a record write when it is READY, the queue is non-empty and the ring has room (R112). It takes the
record of the head channel with the producer index as its sequence, and requests the write address channel (R113). -/
def beginWrite (s : State) : State :=
  match s.queue with
  | [] => s
  | head :: _ =>
    match (s.ch head).held with
    | none => s
    | some v =>
      if s.writer.state = .ready ∧ Writer.fill s.writer < Writer.slots s.writer then
        { s with writer := { s.writer with
            state := .writing,
            flight := some { kind := .record, addr := Writer.slotAddr s.writer s.writer.producer,
                             beats := Verdict.beats v s.writer.producer, phase := .request true } } }
      else s

/-- A channel joins the hold queue at its tail (R104); a write begins where R112 says so. -/
def joinQueue (ch : ChanNo) (s : State) : State := beginWrite { s with queue := s.queue ++ [ch] }

/-! ### The end of a run (R53, R54) -/

/-- What the event that ends a run gives to its record: the outcome, and for a judged set the value, the spread and the
qualifier's flags. -/
structure Ending where
  outcome  : VerdictCode
  value    : Word
  spread   : Nat
  stale    : Bool
  repeated : Bool
  noBoard  : Bool
  deriving DecidableEq, Repr

/-- An ending without a judged set: value 0, spread 0, no flags (R54). -/
def Ending.plain (o : VerdictCode) : Ending :=
  { outcome := o, value := 0, spread := 0, stale := false, repeated := false, noBoard := false }

/-- ABORTED, GUARD and CHARGE suppress the chain (R53). -/
def VerdictCode.suppresses : VerdictCode → Bool
  | .aborted => true
  | .guard => true
  | .charge => true
  | .pass => false
  | .low => false
  | .high => false
  | .learned => false
  | .learnReject => false
  | .noContact => false
  | .lostContact => false
  | .noisy => false
  | .sequence => false
  | .timeout => false
  | .chainRefused => false

/-- Elapsed time of a run in units of 10 µs, saturated (R54). -/
def elapsedField (now start : BitVec 32) : BitVec 16 := saturate16 ((now - start).toNat / 10)

/-- The verdict record built at the end of a run (R54). -/
def runVerdict (s : State) (ch : ChanNo) (c : Channel) (sn : Snapshot) (e : Ending) : Verdict :=
  { step := sn.step, channel := ch, outcome := e.outcome, retries := c.retries, band := c.latchedBand,
    stale := e.stale, repeated := e.repeated, noBoard := e.noBoard, carried := c.carried, board := s.boardField,
    value := e.value, spread := saturate16 e.spread, elapsed := elapsedField s.timebase c.runStart }

/-- The context after the end of a run: it holds the verdict (R53). -/
def Channel.toHolding (c : Channel) (v : Verdict) : Channel :=
  { c with held := some v, deadline := none, state := .holding,
           chainSuppressed := c.chainSuppressed || VerdictCode.suppresses v.outcome }

/-- One run fewer in flight on an entry (R12). -/
def Entry.endRun (e : Entry) : Entry := { e with runs := e.runs - 1 }

/-- One run more in flight on an entry (R12). -/
def Entry.beginRun (e : Entry) : Entry := { e with runs := e.runs + 1 }

/-- A run ends: the verdict is built and held, the deadline cancelled, the entry's runs in flight decremented, and the
channel joins the tail of the hold queue in HOLDING (R53). A channel without a snapshot has no run to end. -/
def endRun (ch : ChanNo) (e : Ending) (s : State) : State :=
  match (s.ch ch).snapshot with
  | none => s
  | some sn =>
    let c := s.ch ch
    let v := runVerdict s ch c sn e
    let n := sn.step.toNat
    joinQueue ch ((s.setEntry n (Entry.endRun (s.entry n))).setCh ch (Channel.toHolding c v))

/-! ### The start of a run (R42, R46, R58) -/

/-- The deadline of a run: run start plus ten times the time limit, or none for a limit of 0 (R37). -/
def deadlineOf (start : BitVec 32) (limit : BitVec 16) : Option (BitVec 32) :=
  if limit = 0#16 then none else some (start + BitVec.ofNat 32 (10 * limit.toNat))

/-- The cleared averaging set (R46). -/
def Channel.clearSet (c : Channel) : Channel :=
  { c with averaged := 0, sum := 0, least := 0, greatest := 0, firstRange := none }

/-- Entry into AVERAGING: the set is cleared and the band latched (R46). -/
def Channel.enterAveraging (c : Channel) (band : Band) : Channel :=
  { Channel.clearSet c with state := .averaging, latchedBand := band }

/-- Settling starts with the snapshot's settle count, or averaging at once where the count is 0 (R44, R48, R58). -/
def Channel.settle (c : Channel) (settleCount : BitVec 8) (band : Band) : Channel :=
  let c' := { c with settleLeft := settleCount.toNat }
  if settleCount = 0#8 then Channel.enterAveraging c' band else { c' with state := .settling }

/-- The context at the start of a run: the fields that R42 lists. -/
def Channel.start (c : Channel) (sn : Snapshot) (now : BitVec 32) (band : Band) : Channel :=
  { c with step := sn.step, snapshot := some sn, runStart := now, deadline := deadlineOf now sn.host.timeLimit,
           touchRun := 0, retries := 0, averaged := 0, sum := 0, least := 0, greatest := 0, charge := 0,
           firstRange := none, lastRetry := .noRetry, contactSeen := false, chainSuppressed := false,
           carried := false, touchHeld := false, latchedBand := band, held := none, state := .seeking }

/-- The snapshot of an entry (R10). -/
def Entry.snapshot (e : Entry) (n : StepNo) : Snapshot := { step := n, host := e.host, generation := e.generation }

/-- A run of step `n` starts on a channel in SEEKING: the snapshot is taken, runs in flight incremented, and the context
set (R10, R12, R42). -/
def startRun (ch : ChanNo) (n : StepNo) (s : State) : State :=
  let e := s.entry n.toNat
  (s.setEntry n.toNat (Entry.beginRun e)).setCh ch
    (Channel.start (s.ch ch) (Entry.snapshot e n) s.timebase s.band.current)

end Sys2Proof.Machine
end

