-- ==== Sys2Proof/Machine/Qualifier.lean ====
section
/-! DEFINITION. The qualifier and the band selector: normalising, compensation, the stale check, judgement, learning and
derivation (R29, R65 to R73, R77, R78, R90 to R97). -/

namespace Sys2Proof.Machine

open Sys2Proof

/-! ### Normalising and compensating -/

/-- The value of a sample before its shift: the positive full scale for an overload (R29). -/
def sampleCounts (w : Word) : Int := if sampleOverload w then 8388607 else sampleValue w

/-- The range shift of a range code (R30). -/
def State.shiftOf (s : State) (range : BitVec 3) : Nat := (s.rangeShift[range.toNat]'range.isLt).toNat

/-- The normalised value of a sample (R29). -/
def State.normalise (s : State) (w : Word) : Int := sampleCounts w * 2 ^ s.shiftOf (sampleRange w)

/-- The coefficient of a kind in a band, in ppm. The table has kinds 0 to 5, which every committed snapshot's kind is
(R67, R68); the other two codes, which no run has, give 0. -/
def State.coefficient (s : State) (kind : BitVec 3) (band : Band) : Int :=
  if h : kind.toNat < 6 then
    (s.comp[kind.toNat * 4 + Band.code band]'(by cases band <;> simp only [Band.code] <;> omega)).toInt
  else 0

/-- The compensated value: the average plus the truncated correction (R67). -/
def compensate (avg coeff : Int) : Int := avg + (avg * coeff).tdiv 1000000

/-! ### Judging (R72, R73, R92) -/

/-- LOW below the low bound, HIGH above the high bound, PASS otherwise (R72, R92). -/
def judgeBoth (v low high : Int) : VerdictCode := if v < low then .low else if high < v then .high else .pass

/-- The one-sided low judgement (R73). -/
def judgeLow (v low : Int) : VerdictCode := if v < low then .low else .pass

/-- The one-sided high judgement (R73). -/
def judgeHigh (v high : Int) : VerdictCode := if high < v then .high else .pass

/-! ### Learning (R90 to R97) -/

/-- Saturation to the signed 32-bit range (R97). -/
def saturateSigned32 (x : Int) : Int := max (-2147483648) (min x 2147483647)

/-- The learned mean; 0 for a count of 0 (R14). -/
def LearnRecord.mean (r : LearnRecord) : Int :=
  if r.count = 0 then 0 else (r.sum.toInt + ((r.count / 2 : Nat) : Int)) / (r.count : Int)

/-- The learn tolerance as derivation uses it: at most 1,000,000 (R184). -/
def toleranceUsed (t : Word) : Nat := min t.toNat 1000000

/-- The margin: the larger of the relative margin and the learn floor (R97). -/
def LearnRecord.margin (r : LearnRecord) (tolerance learnFloor : Word) : Nat :=
  max ((LearnRecord.mean r).natAbs * toleranceUsed tolerance / 1000000) learnFloor.toNat

/-- Derivation of the limits from the record (R97). -/
def LearnRecord.derive (r : LearnRecord) (tolerance learnFloor : Word) : LearnRecord :=
  let m : Int := (LearnRecord.margin r tolerance learnFloor : Nat)
  { r with derived := true,
           derivedLow := BitVec.ofInt 32 (saturateSigned32 (r.least.toInt - m)),
           derivedHigh := BitVec.ofInt 32 (saturateSigned32 (r.greatest.toInt + m)) }

/-- Lazy derivation: an entry not derived whose learn count is K or more is derived (R91). -/
def LearnRecord.lazy (r : LearnRecord) (target : Nat) (tolerance learnFloor : Word) : LearnRecord :=
  if !r.derived && decide (target ≤ r.count) then LearnRecord.derive r tolerance learnFloor else r

/-- The record with a value learned from a board (R96). -/
def LearnRecord.add (r : LearnRecord) (v : Int) (board : BitVec 16) : LearnRecord :=
  { r with count := r.count + 1, lastBoard := board,
           least := if r.count = 0 then BitVec.ofInt 32 v else BitVec.ofInt 32 (min r.least.toInt v),
           greatest := if r.count = 0 then BitVec.ofInt 32 v else BitVec.ofInt 32 (max r.greatest.toInt v),
           sum := if r.count = 0 then BitVec.ofInt 40 v else BitVec.ofInt 40 (r.sum.toInt + v) }

/-- A value is learned, and the entry derived when the count reaches K (R96). -/
def LearnRecord.learn (r : LearnRecord) (v : Int) (board : BitVec 16) (target : Nat) (tolerance learnFloor : Word) :
    LearnRecord :=
  let r' := LearnRecord.add r v board
  if r'.count = target then LearnRecord.derive r' tolerance learnFloor else r'

/-- What a qualification gives back, and the learn record it leaves (R65, R90). -/
structure Qualified where
  outcome  : VerdictCode
  stale    : Bool
  repeated : Bool
  noBoard  : Bool
  learn    : LearnRecord
  deriving DecidableEq, Repr

/-- Stages 2 to 6 of a LEARN-mode qualification that is not stale (R90), on the record that stage 1 left. -/
def qualifyStages (r : LearnRecord) (h : HostFields) (boardOpen : Bool) (board : BitVec 16) (target : Nat) (v : Int) :
    Qualified :=
  if r.derived then
    { outcome := judgeBoth v r.derivedLow.toInt r.derivedHigh.toInt, stale := false, repeated := false,
      noBoard := false, learn := r }
  else if !boardOpen then
    { outcome := .learnReject, stale := false, repeated := false, noBoard := true, learn := r }
  else if v < h.lowLimit.toInt ∨ h.highLimit.toInt < v then
    { outcome := .learnReject, stale := false, repeated := false, noBoard := false, learn := r }
  else if 1 ≤ r.count ∧ r.lastBoard = board then
    { outcome := .learned, stale := false, repeated := true, noBoard := false, learn := r }
  else
    { outcome := .learned, stale := false, repeated := false, noBoard := false,
      learn := LearnRecord.learn r v board target h.tolerance h.learnFloor }

/-- A LEARN-mode qualification that is not stale: lazy derivation, then the other stages (R90). -/
def qualifyLearn (r : LearnRecord) (h : HostFields) (boardOpen : Bool) (board : BitVec 16) (target : Nat) (v : Int) :
    Qualified :=
  qualifyStages (LearnRecord.lazy r target h.tolerance h.learnFloor) h boardOpen board target v

/-- A judged outcome that leaves the learn record as it is. -/
def judgedAs (o : VerdictCode) (stale : Bool) (r : LearnRecord) : Qualified :=
  { outcome := o, stale := stale, repeated := false, noBoard := false, learn := r }

/-- The qualifier's judgement of a compensated value against a snapshot and its entry (R65, R70, R72, R73, R90). -/
def qualify (s : State) (sn : Snapshot) (v : Int) : Qualified :=
  let e := s.entry sn.step.toNat
  let stale : Bool := sn.generation != e.generation
  match sn.host.limitMode with
  | .fixed => judgedAs (judgeBoth v sn.host.lowLimit.toInt sn.host.highLimit.toInt) stale e.learn
  | .lowOnly => judgedAs (judgeLow v sn.host.lowLimit.toInt) stale e.learn
  | .highOnly => judgedAs (judgeHigh v sn.host.highLimit.toInt) stale e.learn
  | .learn =>
    if stale then judgedAs .learnReject true e.learn
    else qualifyLearn e.learn sn.host s.boardOpen s.board s.learnTarget.toNat v

/-! ### The band selector (R77, R78) -/

/-- The next band up; D stays. -/
def Band.up : Band → Band
  | .a => .b
  | .b => .c
  | .c => .d
  | .d => .d

/-- The next band down; A stays. -/
def Band.down : Band → Band
  | .a => .a
  | .b => .a
  | .c => .b
  | .d => .c

/-- The threshold at the lower edge of a band, none for A (4.5). -/
def BandSelector.lowerEdge (b : BandSelector) : Band → Option Int
  | .a => none
  | .b => some b.t1.toInt
  | .c => some b.t2.toInt
  | .d => some b.t3.toInt

/-- The threshold at the upper edge of a band, none for D (4.5). -/
def BandSelector.upperEdge (b : BandSelector) : Band → Option Int
  | .a => some b.t1.toInt
  | .b => some b.t2.toInt
  | .c => some b.t3.toInt
  | .d => none

/-- Thresholds ordered: T1 < T2 < T3 as signed values (R77, R82). -/
def BandSelector.ordered (b : BandSelector) : Bool :=
  decide (b.t1.toInt < b.t2.toInt) && decide (b.t2.toInt < b.t3.toInt)

/-- Pass 1: move up while the temperature has passed the upper edge by the hysteresis; three moves reach D (R78). -/
def BandSelector.climb (b : BandSelector) (t : Int) : Nat → Band → Band
  | 0, band => band
  | n + 1, band =>
    match BandSelector.upperEdge b band with
    | none => band
    | some edge => if edge + (b.hyst.toNat : Int) ≤ t then BandSelector.climb b t n (Band.up band) else band

/-- Pass 2: move down while the temperature is below the lower edge; three moves reach A (R78). -/
def BandSelector.descend (b : BandSelector) (t : Int) : Nat → Band → Band
  | 0, band => band
  | n + 1, band =>
    match BandSelector.lowerEdge b band with
    | none => band
    | some edge => if t < edge then BandSelector.descend b t n (Band.down band) else band

/-- The band after a TEMP write with ordered thresholds (R78). -/
def BandSelector.move (b : BandSelector) (t : Int) : Band :=
  BandSelector.descend b t 3 (BandSelector.climb b t 3 b.current)

/-- A TEMP write taken (R77). -/
def takeTemp (v : Word) (s : State) : State :=
  let t : BitVec 16 := v.extractLsb' 0 16
  let b := { s.band with last := t, noTempYet := false }
  if BandSelector.ordered s.band then { s with band := { b with current := BandSelector.move s.band t.toInt } }
  else raiseBandConfig { s with band := b }

end Sys2Proof.Machine
end

