-- ==== Sys2Proof/Machine/Engine.lean ====
section
/-! DEFINITION. The channel engines: tap events by state, retries, the completed set, deadlines, channel commands, and
release with its chain (R40 to R60). -/

namespace Sys2Proof.Machine

open Sys2Proof

/-! ### Retries and the completed set -/

/-- The outcome that a retry beyond the limit gives (R50). -/
def RetryCause.outcome : RetryCause → VerdictCode
  | .lostContact => .lostContact
  | .noisy => .noisy
  | .sequence => .sequence
  | .noRetry => .sequence

/-- The context after a retry within the limit (R50). -/
def Channel.retried (c : Channel) : Channel :=
  { Channel.clearSet c with retries := c.retries + 1, touchRun := 0, state := .seeking }

/-- A retry with its cause; `spread` is the spread of a rejected set, 0 otherwise (R50, R54). -/
def retry (ch : ChanNo) (sn : Snapshot) (cause : RetryCause) (spread : Nat) (s : State) : State :=
  let c := { s.ch ch with lastRetry := cause }
  if c.retries.toNat < sn.host.retryLimit.toNat then s.setCh ch (Channel.retried c)
  else endRun ch { Ending.plain (RetryCause.outcome cause) with spread := spread } (s.setCh ch c)

/-- Spread of the averaging set: greatest less least (R49). -/
def Channel.spread (c : Channel) : Nat := (c.greatest.toInt - c.least.toInt).toNat

/-- Average of a set of N samples, rounded as R49 states. -/
def averageOf (sum : Int) (n : Nat) : Int := (sum + ((n / 2 : Nat) : Int)) / (n : Int)

/-- The qualifier is invoked on the average of a completed set, and the run ends with what it gives back (R49, R65). -/
def judgeSet (ch : ChanNo) (sn : Snapshot) (s : State) : State :=
  let c := s.ch ch
  let v := compensate (averageOf c.sum.toInt (HostFields.samples sn.host)) (s.coefficient sn.host.kind c.latchedBand)
  let q := qualify s sn v
  let n := sn.step.toNat
  endRun ch { outcome := q.outcome, value := BitVec.ofInt 32 v, spread := Channel.spread c, stale := q.stale,
              repeated := q.repeated, noBoard := q.noBoard }
    (s.setEntry n { s.entry n with learn := q.learn })

/-- The averaging set is complete: the spread check, then judgement (R49). -/
def completeSet (ch : ChanNo) (sn : Snapshot) (s : State) : State :=
  let spread := Channel.spread (s.ch ch)
  if sn.host.spreadLimit.toNat ≠ 0 ∧ sn.host.spreadLimit.toNat < spread then retry ch sn .noisy spread s
  else judgeSet ch sn s

/-! ### Tap events by state -/

/-- The context with touch held set by a tap event of a run in flight (R55). -/
def Channel.heldTouch (c : Channel) (b : Bool) : Channel := { c with touchHeld := b }

/-- A sample in SEEKING (R44). -/
def seekSample (ch : ChanNo) (sn : Snapshot) (w : Word) (s : State) : State :=
  let c := Channel.heldTouch (s.ch ch) (sampleTouch w)
  if sampleTouch w then
    let c' := { c with touchRun := c.touchRun + 1 }
    if c'.touchRun = sn.host.contactRun.toNat then
      s.setCh ch (Channel.settle { c' with contactSeen := true } sn.host.settle s.band.current)
    else s.setCh ch c'
  else s.setCh ch { c with touchRun := 0 }

/-- A sample in SETTLING (R45). -/
def settleSample (ch : ChanNo) (sn : Snapshot) (w : Word) (s : State) : State :=
  let c := Channel.heldTouch (s.ch ch) (sampleTouch w)
  if sampleTouch w then
    let c' := { c with settleLeft := c.settleLeft - 1 }
    if c'.settleLeft = 0 then s.setCh ch (Channel.enterAveraging c' s.band.current) else s.setCh ch c'
  else retry ch sn .lostContact 0 (s.setCh ch c)

/-- The averaging set with a normalised value added (R47). -/
def Channel.addValue (c : Channel) (v : Int) (range : BitVec 3) : Channel :=
  { c with averaged := c.averaged + 1, sum := BitVec.ofInt 40 (c.sum.toInt + v),
           least := if c.averaged = 0 then BitVec.ofInt 32 v else BitVec.ofInt 32 (min c.least.toInt v),
           greatest := if c.averaged = 0 then BitVec.ofInt 32 v else BitVec.ofInt 32 (max c.greatest.toInt v),
           firstRange := some range }

/-- A range restart (R48). -/
def Channel.rangeRestart (c : Channel) (sn : Snapshot) (band : Band) : Channel :=
  Channel.settle (Channel.clearSet c) sn.host.settle band

/-- A sample joins the averaging set, which may complete it (R47). -/
def joinSet (ch : ChanNo) (sn : Snapshot) (w : Word) (c : Channel) (s : State) : State :=
  let c' := Channel.addValue c (s.normalise w) (sampleRange w)
  if c'.averaged = HostFields.samples sn.host then completeSet ch sn (s.setCh ch c') else s.setCh ch c'

/-- A sample in AVERAGING: touch is judged before range (R47). -/
def averageSample (ch : ChanNo) (sn : Snapshot) (w : Word) (s : State) : State :=
  let c := Channel.heldTouch (s.ch ch) (sampleTouch w)
  if sampleTouch w then
    if c.firstRange = none ∨ c.firstRange = some (sampleRange w) then joinSet ch sn w c s
    else s.setCh ch (Channel.rangeRestart c sn s.band.current)
  else retry ch sn .lostContact 0 (s.setCh ch c)

/-- An in-sequence sample handed to the engine (R44, R45, R47, R60). A channel in flight always has a snapshot; without
one it ignores the event (log 21). -/
def engineSample (ch : ChanNo) (w : Word) (s : State) : State :=
  let c := s.ch ch
  match c.state, c.snapshot with
  | .idle, _ => s
  | .holding, _ => s.setCh ch (Channel.heldTouch c false)
  | .seeking, some sn => seekSample ch sn w s
  | .settling, some sn => settleSample ch sn w s
  | .averaging, some sn => averageSample ch sn w s
  | .seeking, none => s
  | .settling, none => s
  | .averaging, none => s

/-- A stray handed to the engine (R44, R45, R47, R60). -/
def engineStray (ch : ChanNo) (s : State) : State :=
  let c := Channel.heldTouch (s.ch ch) false
  match c.state, c.snapshot with
  | .idle, _ => s
  | .holding, _ => s.setCh ch c
  | .seeking, _ => s.setCh ch { c with touchRun := 0 }
  | .settling, some sn => retry ch sn .sequence 0 (s.setCh ch c)
  | .averaging, some sn => retry ch sn .sequence 0 (s.setCh ch c)
  | .settling, none => s
  | .averaging, none => s

/-! ### Deadlines (R37, R51) -/

/-- A deadline is due when the run is in flight and the timebase has reached it (R37). -/
def State.expiryDue (s : State) (ch : ChanNo) : Bool :=
  Channel.inFlight (s.ch ch) && (s.ch ch).deadline == some s.timebase

/-- TIMEOUT if contact was seen, NO_CONTACT if not (R51). -/
def Channel.expiryOutcome (c : Channel) : VerdictCode := if c.contactSeen then .timeout else .noContact

/-- A due expiry ends the run (R51). -/
def takeExpiry (ch : ChanNo) (s : State) : State :=
  if s.expiryDue ch then endRun ch (Ending.plain (Channel.expiryOutcome (s.ch ch))) s else s

/-- The expiries due at the present count, in ascending channel order (R37, R51; the order is log 4). -/
def takeDueExpiries (s : State) : State := allChannels.foldl (fun s ch => takeExpiry ch s) s

/-- The counter rises by one modulo 2^32, and the divider's cycle count starts again (R35). -/
def increment (s : State) : State := { s with timebase := s.timebase + 1, divCount := 0 }

/-- The increment as an event of its own: an expiry still due at the old count is taken before the count passes it, and
the expiries that the new count reaches are due from then on (R35, R37; log 4). -/
def countUp (s : State) : State := increment (takeDueExpiries s)

/-- One cycle of CLK, while no other event waits: an expiry that is still due is taken, the divider counts, and after
TIMEBASE_DIV cycles the timebase increments, and the expiries that it reaches are taken within the cycle (R35, R37, R51;
logs 3 and 4). So no expiry is due after a cycle. While RESET_N is low nothing counts. -/
def clkCycle (s : State) : State :=
  if s.resetN then
    let s' := takeDueExpiries s
    if s'.timebaseDiv.toNat ≤ s'.divCount + 1 then takeDueExpiries (increment s')
    else { s' with divCount := s'.divCount + 1 }
  else s

/-! ### Channel commands (R40 to R43) -/

/-- The last command result of a channel (R40). -/
def setResult (ch : ChanNo) (r : ResultCode) (s : State) : State := s.setCh ch { s.ch ch with lastResult := r }

/-- Whether the source of an entry has a latched trip (R41, R57). -/
def State.sourceTripped (s : State) (e : Entry) : Bool := TripSet.nonempty (s.src e.host.source).trips

/-- The result code of an ARM: the checks in order (R41). -/
def State.armResult (s : State) (ch : ChanNo) (n : Nat) : ResultCode :=
  if s.resetPending then .busy
  else if !Channel.isIdle (s.ch ch) then .busy
  else if 8191 ≤ n then .badStep
  else if !(s.entry n).valid then .invalidStep
  else if s.sourceTripped (s.entry n) then .guarded
  else .done

/-- ARM (R41, R42). -/
def channelArm (ch : ChanNo) (arg : BitVec 24) (s : State) : State :=
  let r := s.armResult ch arg.toNat
  if r = .done then setResult ch .done (startRun ch (arg.setWidth 13) s) else setResult ch r s

/-- ABORT (R43). -/
def channelAbort (ch : ChanNo) (s : State) : State :=
  match (s.ch ch).state with
  | .idle => setResult ch .badState s
  | .holding => setResult ch .done (s.setCh ch { s.ch ch with chainSuppressed := true })
  | .seeking => setResult ch .done (endRun ch (Ending.plain .aborted) s)
  | .settling => setResult ch .done (endRun ch (Ending.plain .aborted) s)
  | .averaging => setResult ch .done (endRun ch (Ending.plain .aborted) s)

/-- A full-word write to CH_CMD: ARM, ABORT, or BAD_ARG for any other code (R40). -/
def channelCommand (ch : ChanNo) (v : Word) (s : State) : State :=
  match (opOf v).toNat with
  | 1 => channelArm ch (argOf v) s
  | 2 => channelAbort ch s
  | _ => setResult ch .badArg s

/-! ### Release and chains (R56 to R59) -/

/-- Whether a chain policy lets an outcome chain (R56, R183). -/
def ChainPolicy.lets (p : ChainPolicy) (o : VerdictCode) : Bool :=
  match p with
  | .never => false
  | .code3 => false
  | .onPass => o == .pass
  | .always => !VerdictCode.suppresses o

/-- The step that follows at a release, if a chain follows (R56). -/
def Channel.chainTarget (c : Channel) : Option StepNo :=
  match c.snapshot, c.held with
  | some sn, some v =>
    if !c.chainSuppressed && sn.host.nextStep != 8191#16 && ChainPolicy.lets sn.host.policy v.outcome then
      some (sn.host.nextStep.setWidth 13)
    else none
  | _, _ => none

/-- Back to IDLE at a release without a chain; DRAINED is raised where that leaves the device quiet (R56, R177). -/
def releaseIdle (ch : ChanNo) (s : State) : State :=
  let s' := s.setCh ch { s.ch ch with held := none, state := .idle, step := noStep, snapshot := none,
                                      chainSuppressed := false }
  if s'.quiet then raiseDrained s' else s'

/-- The context of a run that begins with contact carried over (R58). -/
def Channel.carry (c : Channel) (h : HostFields) (band : Band) : Channel :=
  Channel.settle { c with touchRun := h.contactRun.toNat, contactSeen := true, carried := true, touchHeld := true }
    h.settle band

/-- A chain start that passes its checks (R58). -/
def chainStart (ch : ChanNo) (t : StepNo) (s : State) : State :=
  let s' := startRun ch t s
  if (s.ch ch).touchHeld then
    s'.setCh ch (Channel.carry (s'.ch ch) (s.entry t.toNat).host s.band.current)
  else s'

/-- The CHAIN_REFUSED record (R59). -/
def refusedVerdict (s : State) (ch : ChanNo) (t : StepNo) : Verdict :=
  { step := t, channel := ch, outcome := .chainRefused, retries := 0, band := s.band.current, stale := false,
    repeated := false, noBoard := false, carried := false, board := s.boardField, value := 0, spread := 0,
    elapsed := 0 }

/-- A refused chain: the channel holds a CHAIN_REFUSED verdict and joins the queue again (R59). -/
def chainRefuse (ch : ChanNo) (t : StepNo) (s : State) : State :=
  joinQueue ch (s.setCh ch { s.ch ch with step := t, snapshot := none, latchedBand := s.band.current,
                                          chainSuppressed := true, state := .holding,
                                          held := some (refusedVerdict s ch t) })

/-- Whether a chain start of step `t` passes its checks (R57). -/
def State.chainPasses (s : State) (t : StepNo) : Bool :=
  let e := s.entry t.toNat
  e.valid && !s.sourceTripped e

/-- The release of a channel whose number has left the queue (R56). -/
def release (ch : ChanNo) (s : State) : State :=
  match Channel.chainTarget (s.ch ch) with
  | none => releaseIdle ch s
  | some t => if s.chainPasses t then chainStart ch t s else chainRefuse ch t s

end Sys2Proof.Machine
end

