-- ==== Sys2Proof/Machine/Guard.lean ====
section
/-! DEFINITION. The sample taps, the monitor taps and the stimulus guard: cursors, strays, pair arrivals, trips, charge
metering and guard clearing (R21 to R26, R125 to R137). -/

namespace Sys2Proof.Machine

open Sys2Proof

/-! ### Sample taps (R21 to R26) -/

/-- Whether a word address lies in a tap's window, computed modulo 2^32 (R21). -/
def Tap.contains (t : Tap) (a : Addr) : Bool := decide ((a - t.base).toNat < 4 * t.len.toNat)

/-- The next word of the window (R23). -/
def Tap.next (t : Tap) (a : Addr) : Addr :=
  if (a - t.base).toNat = 4 * (t.len.toNat - 1) then t.base else a + 4

/-- The tap's cursor moved to the word after an address (R23, R25). -/
def Tap.advance (t : Tap) (a : Addr) : Tap := { t with cursor := Tap.next t a }

/-- A full word at the cursor is an in-sequence sample (R24). -/
def takeSample (ch : ChanNo) (w : Word) (s : State) : State :=
  engineSample ch w (s.setTap ch (Tap.advance (s.tap ch) (s.tap ch).cursor))

/-- A stray resynchronises the cursor to the word after it (R25). -/
def takeSampleStray (ch : ChanNo) (addr : Addr) (s : State) : State :=
  engineStray ch (s.setTap ch (Tap.advance (s.tap ch) addr))

/-- A word in a sample window, classified by its strobes and its address against the cursor (R24). -/
def takeSampleWord (ch : ChanNo) (addr : Addr) (strb : BitVec 4) (w : Word) (s : State) : State :=
  if absentStrobe strb then s
  else if fullStrobe strb && addr == (s.tap ch).cursor then takeSample ch w s
  else takeSampleStray ch addr s

/-- The cursor back at the window base (R22, R34). -/
def Tap.rewind (t : Tap) : Tap := { t with cursor := t.base }

/-! ### Monitor taps (R125 to R128) -/

/-- Whether a word address lies in a source's monitor window (R125). -/
def Source.contains (r : Source) (a : Addr) : Bool := decide ((a - r.base).toNat < 8 * r.len.toNat)

/-- The pair after a pair of the window (R126). -/
def Source.nextPair (r : Source) (p : Addr) : Addr :=
  if (p - r.base).toNat = 8 * (r.len.toNat - 1) then r.base else p + 8

/-- Cursor back at the base and no half pair (R125, R145). -/
def Source.rewind (r : Source) : Source := { r with cursor := r.base, half := none }

/-- A voltage word fills the half pair (R127). -/
def takeVoltage (src : SrcNo) (v : Word) (s : State) : State := s.setSrc src { s.src src with half := some v }

/-- A stray in a monitor window: the half pair is discarded, the cursor moves to the pair after the one that holds the
stray, and MON_SEQUENCE and the sequence indication are set (R128). -/
def takeMonitorStray (src : SrcNo) (addr : Addr) (s : State) : State :=
  let r := s.src src
  raiseMonSequence (s.setSrc src { r with half := none, cursor := Source.nextPair r (dwordOf addr), seqInd := true })

/-! ### Comparison (R131, R132) -/

/-- The history with a pair added: the last four pairs, oldest first (R131). -/
def addHistory (h : List Pair) (p : Pair) : List Pair := (if h.length < 4 then h else h.drop 1) ++ [p]

/-- The truncated mean of four values (R131). -/
def mean4 (xs : List Int) : Int := xs.sum.tdiv 4

/-- The voltage and current that a comparison uses, or none where no comparison is made (R131). The history already
holds the pair. -/
def Source.compared (r : Source) (p : Pair) : Option (Int × Int) :=
  match r.mode with
  | .each => some (p.voltage.toInt, p.current.toInt)
  | .avg4 =>
    if r.history.length = 4 then
      some (mean4 (r.history.map fun q => q.voltage.toInt), mean4 (r.history.map fun q => q.current.toInt))
    else none

/-- The trip kinds whose condition holds for compared values (R132). -/
def Source.kindsFound (r : Source) (v i : Int) : TripSet :=
  { overI := decide (r.iLimit.toNat ≠ 0) && decide (r.iLimit.toNat < i.natAbs),
    overV := decide (r.vLimit.toNat ≠ 0) && decide (r.vLimit.toNat < v.natAbs),
    overP := decide (r.pLimit.toNat ≠ 0) && decide (r.pLimit.toNat * 1000 < v.natAbs * i.natAbs) }

/-- The kinds that a pair arrival finds; none where no comparison is made (R131, R132). -/
def Source.found (r : Source) (p : Pair) : TripSet :=
  match Source.compared r p with
  | some (v, i) => Source.kindsFound r v i
  | none => .empty

/-- Kinds added to a latched set (R134). -/
def TripSet.union (a b : TripSet) : TripSet :=
  { overI := a.overI || b.overI, overV := a.overV || b.overV, overP := a.overP || b.overP }

/-! ### Tripping and metering (R133 to R136) -/

/-- End the run of a channel with GUARD where it is bound to the source (R133). -/
def endGuarded (src : SrcNo) (ch : ChanNo) (s : State) : State :=
  if Channel.boundTo (s.ch ch) src then endRun ch (Ending.plain .guard) s else s

/-- Every run bound to a source ends with GUARD, in ascending order of channel number (R133). -/
def endBoundRuns (src : SrcNo) (s : State) : State := allChannels.foldl (fun s ch => endGuarded src ch s) s

/-- The kinds found act on the source: a trip where its set was empty, otherwise kinds added (R133, R134). -/
def tripCheck (src : SrcNo) (found : TripSet) (s : State) : State :=
  let r := s.src src
  let s' := s.setSrc src { r with trips := TripSet.union r.trips found }
  if TripSet.nonempty found && !TripSet.nonempty r.trips then endBoundRuns src s' else s'

/-- Charge of one pair: the magnitude of its current times PERIOD, in 0.1 pC (R135). -/
def chargeOf (current : Word) (period : BitVec 16) : Nat := current.toInt.natAbs * period.toNat

/-- The accumulator after a charge, saturating at 2^48 - 1 (R135). -/
def addCharge (c : BitVec 48) (amount : Nat) : BitVec 48 := BitVec.ofNat 48 (min (c.toNat + amount) (2 ^ 48 - 1))

/-- Whether an accumulator exceeds a budget in nC (R135). -/
def overBudget (c : BitVec 48) (budget : Word) : Bool := decide (budget.toNat * 10000 < c.toNat)

/-- Whether a pair of a source is metered into a channel: a run in flight on it with a budget, a PERIOD other than 0,
and a monitor window that is enabled (R125, R135). -/
def State.metered (s : State) (src : SrcNo) (ch : ChanNo) : Bool :=
  Channel.boundTo (s.ch ch) src && (s.src src).len != 0#16 && (s.src src).period != 0#16 &&
    (match (s.ch ch).snapshot with
     | some sn => sn.host.budget != 0#32
     | none => false)

/-- The budget of a channel's run; 0 without a run. -/
def Channel.budget (c : Channel) : Word :=
  match c.snapshot with
  | some sn => sn.host.budget
  | none => 0

/-- One pair's charge metered into one run, which ends with CHARGE where it exceeds its budget (R135). -/
def meterRun (src : SrcNo) (current : Word) (ch : ChanNo) (s : State) : State :=
  if s.metered src ch then
    let c := s.ch ch
    let charge := addCharge c.charge (chargeOf current (s.src src).period)
    let s' := s.setCh ch { c with charge := charge }
    if overBudget charge (Channel.budget c) then endRun ch (Ending.plain .charge) s' else s'
  else s

/-- One pair's charge metered into every run on the source, in ascending order of channel number (R135). -/
def meterPair (src : SrcNo) (current : Word) (s : State) : State :=
  allChannels.foldl (fun s ch => meterRun src current ch s) s

/-- A pair arrival: history, trip check, then charge metering (R131, R133, R135, R136). -/
def pairArrives (src : SrcNo) (p : Pair) (s : State) : State :=
  let r := { s.src src with history := addHistory (s.src src).history p }
  meterPair src p.current (tripCheck src (Source.found r p) (s.setSrc src r))

/-- A current word completes the half pair: the half pair empties, the cursor moves on, and the pair arrives (R127). -/
def takeCurrent (src : SrcNo) (voltage current : Word) (s : State) : State :=
  let r := s.src src
  pairArrives src { voltage := voltage, current := current }
    (s.setSrc src { r with half := none, cursor := Source.nextPair r r.cursor })

/-- How a tap classifies a present word of its window (R127). -/
inductive MonitorWord where
  | voltage | pair (voltage : Word) | stray
  deriving DecidableEq, Repr

/-- The classification of a present word against the cursor and the half pair (R127). -/
def Source.classify (r : Source) (addr : Addr) (strb : BitVec 4) : MonitorWord :=
  if fullStrobe strb then
    match r.half with
    | none => if addr = r.cursor then .voltage else .stray
    | some v => if addr = r.cursor + 4 then .pair v else .stray
  else .stray

/-- A word in a monitor window (R127). -/
def takeMonitorWord (src : SrcNo) (addr : Addr) (strb : BitVec 4) (w : Word) (s : State) : State :=
  if absentStrobe strb then s
  else
    match Source.classify (s.src src) addr strb with
    | .voltage => takeVoltage src w s
    | .pair v => takeCurrent src v w s
    | .stray => takeMonitorStray src addr s

/-! ### Guard clearing (R137) -/

/-- A source cleared: trip set, history and sequence indication (R137). -/
def Source.cleared (r : Source) : Source := { r with trips := .empty, history := [], seqInd := false }

/-- The selected sources are cleared (R137). -/
def clearGuards (mask : BitVec 24) (s : State) : State :=
  { s with srcs := #v[if mask.getLsbD 0 then Source.cleared s.srcs[0] else s.srcs[0],
                      if mask.getLsbD 1 then Source.cleared s.srcs[1] else s.srcs[1],
                      if mask.getLsbD 2 then Source.cleared s.srcs[2] else s.srcs[2],
                      if mask.getLsbD 3 then Source.cleared s.srcs[3] else s.srcs[3]] }

/-- A source at the completion of a plan reset (R145). -/
def Source.planReset (r : Source) : Source := Source.rewind (Source.cleared r)

end Sys2Proof.Machine
end

