-- ==== Sys2Proof/Machine/Writer.lean ====
section
/-! DEFINITION. The verdict writer and the plan reset: ring configuration, consumer, the writer's requests, data and
responses, publication, faults, and the completion of a plan reset (R107 to R123, R159, R160, R171 to R174). -/

namespace Sys2Proof.Machine

open Sys2Proof

/-! ### Ring configuration (R108 to R110, R118, R121) -/

/-- A write to a ring configuration word: taken while the writer is OFF, otherwise refused (R108). -/
def ringConfig (f : Writer → Writer) (s : State) : State :=
  if s.writer.state = .off then { s with writer := f s.writer } else raiseConfigRefused s

/-- RING_BASE taken: the base, and both indices 0 (R108). -/
def takeRingBase (v : Word) (s : State) : State :=
  ringConfig (fun w => { w with ringBase := v, producer := 0, consumer := 0 }) s

/-- RING_SIZE taken: the code, and both indices 0 (R108). -/
def takeRingSize (v : Word) (s : State) : State :=
  ringConfig (fun w => { w with sizeCode := v.extractLsb' 0 4, producer := 0, consumer := 0 }) s

/-- RING_PROD_ADDR taken with its two lowest bits as 0 (R108). -/
def takeRingProdAddr (v : Word) (s : State) : State := ringConfig (fun w => { w with prodAddr := wordOf v }) s

/-- The two conditions of an enable: an aligned base and a size code of 4 to 12 (R109). -/
def Writer.enableOk (w : Writer) : Bool :=
  decide (4 ≤ w.sizeCode.toNat) && decide (w.sizeCode.toNat ≤ 12) &&
    decide (w.ringBase.toNat % (Writer.slots w * 16) = 0)

/-- RING_CTRL with the enable field 1 (R109). -/
def ringEnable (s : State) : State :=
  if s.writer.state = .off then
    if Writer.enableOk s.writer then beginWrite { s with writer := { s.writer with state := .ready } }
    else raiseConfigRefused s
  else s

/-- RING_CTRL with the enable field 0 (R110). -/
def ringDisable (s : State) : State :=
  match s.writer.state with
  | .off => s
  | .ready => { s with writer := { s.writer with state := .off } }
  | .writing => raiseConfigRefused s
  | .fault => raiseConfigRefused s

/-- A full-word write to RING_CTRL, by its enable field (R109, R110). -/
def takeRingCtrl (v : Word) (s : State) : State := if v.getLsbD 0 then ringEnable s else ringDisable s

/-- RING_LEVEL taken (R121). -/
def takeRingLevel (v : Word) (s : State) : State :=
  { s with writer := { s.writer with ringLevel := v.extractLsb' 0 16 } }

/-- A CONSUMER write (R118); one that makes room in a full ring starts the next write (R112). -/
def takeConsumer (v : Word) (s : State) : State :=
  let new : BitVec 16 := v.extractLsb' 0 16
  if (new - s.writer.consumer).toNat ≤ Writer.fill s.writer then
    beginWrite { s with writer := { s.writer with consumer := new } }
  else raiseConsumerRefused s

/-! ### The writer's bursts on the downstream port (R113, R114, R159, R160) -/

/-- The attributes of a burst of the writer: never exclusive (R116), the rest free (log 8). -/
def writerAttrs (k : Nat) : Attrs :=
  { lock := false, cache := Config.writerCache k, prot := Config.writerProt k, qos := Config.writerQos k,
    region := Config.writerRegion k, user := Config.writerUser k }

/-- The address phase of the writer's burst: two beats of 64 bits, incrementing, for a record (R113); a single beat
for the producer word (R114). -/
def Flight.burst (f : Flight) (k : Nat) : Burst :=
  match f.kind with
  | .record => { addr := f.addr, len := 1, size := 3, type := .incr, attrs := writerAttrs k }
  | .producerWord =>
    { addr := f.addr, len := 0, size := if Config.producerWide k then 3 else 2,
      type := if Config.producerFixed k then .fixed else .incr, attrs := writerAttrs k }

/-- The beat of the producer-word write: the word in the half that its address selects, with its four bytes enabled;
the other half is free (R114; log 8). -/
def producerBeat (addr : Addr) (word : Word) (k : Nat) : Beat × BitVec 8 :=
  if addr.getLsbD 2 then (beatOf (Config.producerIdleHalf k) word, 0xF0#8)
  else (beatOf word (Config.producerIdleHalf k), 0x0F#8)

/-- The producer word: producer + 1 in its low 16 bits (R114). -/
def producerWord (p : BitVec 16) : Word := (p + 1).setWidth 32

/-- The producer-word write of a producer index (R114). -/
def Writer.producerFlight (w : Writer) (k : Nat) : Flight :=
  { kind := .producerWord, addr := w.prodAddr, beats := [producerBeat w.prodAddr (producerWord w.producer) k],
    phase := .request true }

/-- The writer issues the producer-word write and stays in WRITING (R114). -/
def issueProducerWord (s : State) : State :=
  { s with freeCount := s.freeCount + 1,
           writer := { s.writer with flight := some (Writer.producerFlight s.writer s.freeCount) } }

/-- The transfers of a burst's data beats, the last one marked. -/
def beatTransfers : List (Beat × BitVec 8) → List PortTransfer
  | [] => []
  | [(d, m)] => [.downWriteBeat d m true]
  | (d, m) :: rest => .downWriteBeat d m false :: beatTransfers rest

/-- The writer's data are sent as soon as no forwarded burst granted before it still has data to send (R160;
log 22). -/
def sendWriterData (s : State) : State :=
  match s.writer.flight with
  | some f =>
    match f.phase with
    | .data 0 =>
      { s with trace := s.trace ++ beatTransfers f.beats,
               writer := { s.writer with flight := some { f with phase := .response } } }
    | .data (_ + 1) => s
    | .request _ => s
    | .response => s
  | none => s

/-- One forwarded burst fewer ahead of the writer's data (R160). -/
def Flight.oneFewerAhead (f : Flight) : Flight :=
  match f.phase with
  | .data (n + 1) => { f with phase := .data n }
  | .data 0 => f
  | .request _ => f
  | .response => f

/-- A forwarded burst's last data beat has been taken downstream (R160). -/
def forwardedDataDone (s : State) : State :=
  sendWriterData { s with writer := { s.writer with flight := s.writer.flight.map Flight.oneFewerAhead } }

/-! ### The completion of a plan reset (R63, R122, R145, R173) -/

/-- A channel context at the completion of a plan reset (R63). -/
def Channel.planReset (c : Channel) : Channel :=
  { c with state := .idle, step := noStep, snapshot := none, deadline := none, held := none, touchRun := 0,
           settleLeft := 0, averaged := 0, sum := 0, least := 0, greatest := 0, retries := 0, charge := 0,
           firstRange := none, lastRetry := .noRetry, contactSeen := false, chainSuppressed := false,
           carried := false, touchHeld := false }

/-- The writer at the completion of a plan reset (R122). -/
def Writer.planReset (w : Writer) : Writer :=
  { w with producer := 0, consumer := 0, state := if w.state = .off then .off else .ready, failed := .noWrite,
           failResponse := none, flight := none }

/-- An entry at the completion of a plan reset: no run in flight (R19). -/
def Entry.planReset (e : Entry) : Entry := { e with runs := 0 }

/-- The completion of a plan reset, as one act (R173). -/
def completePlanReset (s : State) : State :=
  { s with chans := mapChannels Channel.planReset s.chans, table := Table.mapAll Entry.planReset s.table,
           queue := [], writer := Writer.planReset s.writer, boardOpen := false, board := noBoard,
           srcs := mapSources Source.planReset s.srcs, taps := mapTaps Tap.rewind s.taps, flags := .clear,
           resetPending := false, devResult := .done }

/-! ### Responses to the writer (R114 to R116, R122, R161) -/

/-- Whether the writer awaits the response to a write of a kind. -/
def Writer.awaits (w : Writer) (k : WriteKind) : Bool :=
  w.state == .writing &&
    (match w.flight with
     | some f => f.kind == k && f.phase == .response
     | none => false)

/-- Whether the writer awaits a response. -/
def Writer.awaitsAny (w : Writer) : Bool := Writer.awaits w .record || Writer.awaits w .producerWord

/-- Publication: the producer advances, the head leaves the queue, the writer is READY, the channel is released, and the
next write begins where R112 says so (R115). -/
def publish (s : State) : State :=
  match s.queue with
  | [] => s
  | head :: rest =>
    beginWrite (release head
      { s with queue := rest,
               writer := { s.writer with producer := s.writer.producer + 1, state := .ready, flight := none } })

/-- The failed write that RING_STATE reports for a kind (R116). -/
def WriteKind.failed : WriteKind → FailedWrite
  | .record => .record
  | .producerWord => .producerWord

/-- An error response puts the writer in FAULT (R116). -/
def writerFault (k : WriteKind) (e : ErrResp) (s : State) : State :=
  { s with writer := { s.writer with state := .fault, failed := WriteKind.failed k, failResponse := some e,
                                     flight := none } }

/-- OKAY to the record write: it completes a pending plan reset, or the producer word is issued (R114, R122). -/
def recordOkay (s : State) : State := if s.resetPending then completePlanReset s else issueProducerWord s

/-- OKAY to the producer-word write: it completes a pending plan reset, or publishes the record (R115, R122). -/
def producerOkay (s : State) : State := if s.resetPending then completePlanReset s else publish s

/-- An error response to a write of the writer: it completes a pending plan reset, or puts the writer in FAULT (R116,
R122). -/
def writeError (k : WriteKind) (e : ErrResp) (s : State) : State :=
  if s.resetPending then completePlanReset s else writerFault k e s

end Sys2Proof.Machine
end

