-- ==== Sys2Proof/Machine/Aperture.lean ====
section
/-! DEFINITION. The control aperture: what each step, configuration and command word does when it is written, the device
commands, and the handing of a word of a write beat to the class that claims it (R5 to R9, R15, R22, R30, R36, R68, R76,
R86, R87, R89, R100, R125, R130, R137, R144, R150, R168, R169, R171, R179). -/

namespace Sys2Proof.Machine

open Sys2Proof

/-! ### The step area (R2, R6 to R9) -/

/-- A full-word write to word `k`, 0 to 6, of an entry (R8). -/
def Entry.edit (e : Entry) (k : Nat) (v : Word) : Entry :=
  { e with host := HostFields.take e.host k v, generation := e.generation + 1, valid := false }

/-- A commit: the budget is taken, the checks made, the learn record cleared (R9). -/
def Entry.commit (e : Entry) (v : Word) : Entry :=
  let h := HostFields.take e.host 7 v
  { e with host := h, generation := e.generation + 1, valid := HostFields.passesCommit h,
           status := if HostFields.passesCommit h then .committed else .rejected, learn := .cleared }

/-- STEP_WORD_WRITE on the table (R8). -/
def editEntry (n k : Nat) (v : Word) (s : State) : State := s.setEntry n (Entry.edit (s.entry n) k v)

/-- COMMIT on the table; a commit that fails raises COMMIT_REJECTED (R9). -/
def commitEntry (n : Nat) (v : Word) (s : State) : State :=
  let e := Entry.commit (s.entry n) v
  if e.valid then s.setEntry n e else raiseCommitRejected (s.setEntry n e)

/-- A full-word write at a word-aligned offset of the step area: entry 8191 is misuse (R2), word 7 is a commit (R9), any
other word an edit (R8). -/
def takeStepWord (offset : Nat) (v : Word) (s : State) : State :=
  let n := offset / 32
  let k := offset % 32 / 4
  if n = 8191 then raiseMisuse s else if k = 7 then commitEntry n v s else editEntry n k v s

/-! ### Configuration words -/

/-- A write refused by its owner unless a condition holds. -/
def acceptIf (c : Bool) (f : State → State) (s : State) : State := if c then f s else raiseConfigRefused s

/-- TIMEBASE_DIV (R36). -/
def takeTimebaseDiv (v : Word) (s : State) : State :=
  acceptIf (decide (1 ≤ v.toNat) && decide (v.toNat ≤ 1023))
    (fun s => { s with timebaseDiv := v.setWidth 10, divCount := 0 }) s

/-- LEARN_TARGET (R89). -/
def takeLearnTarget (v : Word) (s : State) : State :=
  acceptIf (decide (1 ≤ v.toNat) && decide (v.toNat ≤ 15) && !s.boardOpen && s.allIdle)
    (fun s => { s with learnTarget := v.setWidth 4 }) s

/-- NOTICE_ENABLE (R179, 10.5). -/
def takeNoticeEnable (v : Word) (s : State) : State :=
  { s with notice := { ring := v.getLsbD 0, guard := v.getLsbD 1, writerFault := v.getLsbD 2,
                       flags := v.getLsbD 3 } }

/-- A threshold BAND_T1, BAND_T2 or BAND_T3 (R76). -/
def takeBandT (i : Fin 3) (v : Word) (s : State) : State :=
  let t : BitVec 16 := v.extractLsb' 0 16
  match i.val with
  | 0 => { s with band := { s.band with t1 := t } }
  | 1 => { s with band := { s.band with t2 := t } }
  | _ => { s with band := { s.band with t3 := t } }

/-- BAND_HYST (R76). -/
def takeBandHyst (v : Word) (s : State) : State := { s with band := { s.band with hyst := v.extractLsb' 0 8 } }

/-- RANGE_SHIFT (R30). -/
def takeRangeShift (r : Fin 8) (v : Word) (s : State) : State :=
  acceptIf s.allIdle (fun s => { s with rangeShift := s.rangeShift.set r.val (v.extractLsb' 0 3) r.isLt }) s

/-- A coefficient clamped to plus or minus 100,000 (R68). -/
def clampPpm (v : Word) : Word := BitVec.ofInt 32 (max (-100000) (min v.toInt 100000))

/-- COMP (R68). -/
def takeComp (k : Fin 6) (b : Fin 4) (v : Word) (s : State) : State :=
  { s with comp := s.comp.set (k.val * 4 + b.val) (clampPpm v) (by omega) }

/-- SAMPLE_BASE: taken while the channel is IDLE; the cursor returns to the base (R21, R22). -/
def takeSampleBase (ch : ChanNo) (v : Word) (s : State) : State :=
  acceptIf (Channel.isIdle (s.ch ch)) (fun s => s.setTap ch (Tap.rewind { s.tap ch with base := wordOf v })) s

/-- SAMPLE_LEN: taken while the channel is IDLE; the cursor returns to the base (R21, R22). -/
def takeSampleLen (ch : ChanNo) (v : Word) (s : State) : State :=
  acceptIf (Channel.isIdle (s.ch ch))
    (fun s => s.setTap ch (Tap.rewind { s.tap ch with len := v.extractLsb' 0 16 })) s

/-- MON_BASE: base taken with its three lowest bits 0, cursor at the base, half pair and history discarded (R125). -/
def takeMonBase (src : SrcNo) (v : Word) (s : State) : State :=
  s.setSrc src (Source.rewind { s.src src with base := dwordOf v, history := [] })

/-- MON_LEN: length taken, cursor at the base, half pair and history discarded (R125). -/
def takeMonLen (src : SrcNo) (v : Word) (s : State) : State :=
  s.setSrc src (Source.rewind { s.src src with len := v.extractLsb' 0 16, history := [] })

/-- I_LIMIT (R130). -/
def takeILimit (src : SrcNo) (v : Word) (s : State) : State := s.setSrc src { s.src src with iLimit := v }

/-- V_LIMIT (R130). -/
def takeVLimit (src : SrcNo) (v : Word) (s : State) : State := s.setSrc src { s.src src with vLimit := v }

/-- P_LIMIT (R130). -/
def takePLimit (src : SrcNo) (v : Word) (s : State) : State := s.setSrc src { s.src src with pLimit := v }

/-- PERIOD (R130). -/
def takePeriod (src : SrcNo) (v : Word) (s : State) : State :=
  s.setSrc src { s.src src with period := v.extractLsb' 0 16 }

/-- GUARD_CTRL: bit 0 the mode, bit 1 hold enable (R130, 10.5). -/
def takeGuardCtrl (src : SrcNo) (v : Word) (s : State) : State :=
  s.setSrc src { s.src src with mode := if v.getLsbD 0 then .avg4 else .each, holdEnable := v.getLsbD 1 }

/-- MOVE_BASE (R140, R144). -/
def takeMoveBase (v : Word) (s : State) : State := { s with move := { s.move with base := v } }

/-- MOVE_LEN (R140, R144). -/
def takeMoveLen (v : Word) (s : State) : State := { s with move := { s.move with len := v } }

/-- MOTION_ID (R140, R144). -/
def takeMotionId (v : Word) (s : State) : State := { s with move := { s.move with id := v.extractLsb' 0 16 } }

/-- MOTION_ID_MASK (R140, R144). -/
def takeMotionIdMask (v : Word) (s : State) : State := { s with move := { s.move with mask := v.extractLsb' 0 16 } }

/-- HOLD_PATTERN (R141, R144). -/
def takeHoldPattern (v : Word) (s : State) : State := { s with move := { s.move with pattern := v } }

/-- A full-word write to an assigned configuration word (9.2, 10.5). -/
def takeConfigWord (w : ConfigWord) (v : Word) (s : State) : State :=
  match w with
  | .timebaseDiv => takeTimebaseDiv v s
  | .learnTarget => takeLearnTarget v s
  | .noticeEnable => takeNoticeEnable v s
  | .ringLevel => takeRingLevel v s
  | .ringBase => takeRingBase v s
  | .ringSize => takeRingSize v s
  | .ringProdAddr => takeRingProdAddr v s
  | .ringCtrl => takeRingCtrl v s
  | .bandT i => takeBandT i v s
  | .bandHyst => takeBandHyst v s
  | .rangeShift r => takeRangeShift r v s
  | .comp k b => takeComp k b v s
  | .sampleBase ch => takeSampleBase ch v s
  | .sampleLen ch => takeSampleLen ch v s
  | .monBase src => takeMonBase src v s
  | .monLen src => takeMonLen src v s
  | .iLimit src => takeILimit src v s
  | .vLimit src => takeVLimit src v s
  | .pLimit src => takePLimit src v s
  | .period src => takePeriod src v s
  | .guardCtrl src => takeGuardCtrl src v s
  | .moveBase => takeMoveBase v s
  | .moveLen => takeMoveLen v s
  | .motionId => takeMotionId v s
  | .motionIdMask => takeMotionIdMask v s
  | .holdPattern => takeHoldPattern v s

/-! ### Device commands (R86, R87, R100, R137, R169 to R172) -/

/-- The result of the last device command (R169). -/
def setDevResult (r : ResultCode) (s : State) : State := { s with devResult := r }

/-- A device command: BUSY while a plan reset is pending, otherwise as its rule states (R169, R172). -/
def deviceCommand (f : State → State) (s : State) : State := if s.resetPending then setDevResult .busy s else f s

/-- PLAN_RESET: pending in WRITING, complete at once otherwise (R171). -/
def devPlanReset (s : State) : State :=
  deviceCommand (fun s =>
    if s.writer.state = .writing then setDevResult .pending { s with resetPending := true }
    else completePlanReset s) s

/-- The result of a BOARD_OPEN that no pending reset refuses: the checks in order (R86). -/
def State.boardOpenResult (s : State) (n : Nat) : ResultCode :=
  if 65535 ≤ n then .badArg else if s.boardOpen then .badState else if !s.quiet then .busy else .done

/-- BOARD_OPEN (R86). -/
def devBoardOpen (arg : BitVec 24) (s : State) : State :=
  deviceCommand (fun s =>
    let r := s.boardOpenResult arg.toNat
    if r = .done then setDevResult .done { s with boardOpen := true, board := arg.setWidth 16 }
    else setDevResult r s) s

/-- The result of a BOARD_CLOSE that no pending reset refuses: the checks in order (R87). -/
def State.boardCloseResult (s : State) : ResultCode :=
  if !s.boardOpen then .badState else if !s.quiet then .busy else .done

/-- BOARD_CLOSE (R87). -/
def devBoardClose (s : State) : State :=
  deviceCommand (fun s =>
    let r := s.boardCloseResult
    if r = .done then setDevResult .done { s with boardOpen := false, board := noBoard } else setDevResult r s) s

/-- An entry with its learn record cleared (R100). -/
def Entry.learnCleared (e : Entry) : Entry := { e with learn := .cleared }

/-- LEARN_CLEAR (R100). -/
def devLearnClear (arg : BitVec 24) (s : State) : State :=
  deviceCommand (fun s =>
    if arg.toNat ≤ 8190 then
      setDevResult .done (s.setEntry arg.toNat (Entry.learnCleared (s.entry arg.toNat)))
    else if arg = 0xFFFFFF#24 then setDevResult .done { s with table := Table.mapAll Entry.learnCleared s.table }
    else setDevResult .badStep s) s

/-- GUARD_CLEAR (R137). -/
def devGuardClear (arg : BitVec 24) (s : State) : State :=
  deviceCommand (fun s => setDevResult .done (clearGuards arg s)) s

/-- A device command with an unknown operation code (R169). -/
def devUnknown (s : State) : State := deviceCommand (fun s => setDevResult .badArg s) s

/-- A full-word write to DEV_CMD, by its operation code (R169). -/
def takeDevCmd (v : Word) (s : State) : State :=
  match (opOf v).toNat with
  | 1 => devPlanReset s
  | 2 => devBoardOpen (argOf v) s
  | 3 => devBoardClose s
  | 4 => devLearnClear (argOf v) s
  | 5 => devGuardClear (argOf v) s
  | _ => devUnknown s

/-- INSPECT (R15). -/
def takeInspect (v : Word) (s : State) : State := { s with inspect := v.extractLsb' 0 13 }

/-- A full-word write to a command word (10.6). -/
def takeCommandWord (w : CommandWord) (v : Word) (s : State) : State :=
  match w with
  | .chCmd ch => channelCommand ch v s
  | .devCmd => takeDevCmd v s
  | .consumer => takeConsumer v s
  | .temp => takeTemp v s
  | .inspect => takeInspect v s

/-! ### A word of a write beat (R150) -/

/-- The class of a word address (R150). -/
inductive WordClass where
  | live | step (offset : Nat) | config (offset : Nat) | command (offset : Nat) | passThrough
  | sample (ch : ChanNo) | monitor (src : SrcNo) | other
  deriving DecidableEq, Repr

/-- The class of a word address that lies outside the aperture: the lowest-numbered sample window that contains it, then
the lowest-numbered monitor window (R31, R129, R150). -/
def State.windowClass (s : State) (a : Addr) : WordClass :=
  match allChannels.find? fun ch => Tap.contains (s.tap ch) a with
  | some ch => .sample ch
  | none =>
    match allSources.find? fun src => Source.contains (s.src src) a with
    | some src => .monitor src
    | none => .other

/-- The class of a word address, by precedence (R150). -/
def State.classify (s : State) (a : Addr) : WordClass :=
  match apertureOffset s.apBase a with
  | some off =>
    match areaOf off with
    | .live => .live
    | .step => .step off
    | .config => .config off
    | .command => .command off
    | .passThrough => .passThrough
  | none => s.windowClass a

/-- An aperture word with its strobes: absent, partial (misuse), or full (R5, R6, R168). -/
def apertureWord (strb : BitVec 4) (f : State → State) (s : State) : State :=
  if absentStrobe strb then s else if fullStrobe strb then f s else raiseMisuse s

/-- A full-word write at an offset of the configuration area; an unassigned word has no effect (R168). -/
def takeConfigOffset (offset : Nat) (v : Word) (s : State) : State :=
  match configWordAt offset with
  | some w => takeConfigWord w v s
  | none => s

/-- A full-word write at an offset of the command area; an unassigned word has no effect (R168). -/
def takeCommandOffset (offset : Nat) (v : Word) (s : State) : State :=
  match commandWordAt offset with
  | some w => takeCommandWord w v s
  | none => s

/-- A word of a forwarded write beat is handed to the class that claims its address (R150). -/
def handWord (a : Addr) (strb : BitVec 4) (v : Word) (s : State) : State :=
  match s.classify a with
  | .live => s
  | .step off => apertureWord strb (takeStepWord off v) s
  | .config off => apertureWord strb (takeConfigOffset off v) s
  | .command off => apertureWord strb (takeCommandOffset off v) s
  | .passThrough => s
  | .sample ch => takeSampleWord ch a strb v s
  | .monitor src => takeMonitorWord src a strb v s
  | .other => s

/-- The two words of a beat, the lower-addressed first, each whole before the next (R5, R26, R129, R152). -/
def handBeat (dword : Addr) (strb : BitVec 8) (data : Beat) (s : State) : State :=
  handWord (dword + 4) (highStrobes strb) (highWord data) (handWord dword (lowStrobes strb) (lowWord data) s)

end Sys2Proof.Machine
end

