-- ==== Sys2Proof/Machine/Live.lean ====
section
/-! DEFINITION. The live words: what a read of each word of the live area reports, and the beats of a live read (R14 to R17,
R62, R82, R106, R120, R138, R155, R170, R178, 10.7). -/

namespace Sys2Proof.Machine

open Sys2Proof

/-! ### Codes (10.7) -/

/-- Code of a result (10.7). -/
def ResultCode.code : ResultCode → Nat
  | .noResult => 0
  | .done => 1
  | .pending => 2
  | .busy => 3
  | .badArg => 4
  | .badState => 5
  | .badStep => 6
  | .invalidStep => 7
  | .guarded => 8

/-- Code of a channel state (10.7). -/
def ChState.code : ChState → Nat
  | .idle => 0
  | .seeking => 1
  | .settling => 2
  | .averaging => 3
  | .holding => 4

/-- Code of a writer state (10.7). -/
def WriterState.code : WriterState → Nat
  | .off => 0
  | .ready => 1
  | .writing => 2
  | .fault => 3

/-- Code of a failed write (10.7). -/
def FailedWrite.code : FailedWrite → Nat
  | .noWrite => 0
  | .record => 1
  | .producerWord => 2

/-- Code of a recorded response, 0 for none (10.7). -/
def failResponseCode : Option ErrResp → Nat
  | none => 0
  | some .slverr => 1
  | some .decerr => 2
  | some .exokay => 3

/-- Code of a retry cause (10.7). -/
def RetryCause.code : RetryCause → Nat
  | .noRetry => 0
  | .lostContact => 1
  | .noisy => 2
  | .sequence => 3

/-- Code of a commit status (10.7). -/
def CommitStatus.code : CommitStatus → Nat
  | .never => 0
  | .committed => 1
  | .rejected => 2

/-- The mode bit of GUARD_CTRL and SRC_STATUS (10.7). -/
def GuardMode.isAvg4 : GuardMode → Bool
  | .each => false
  | .avg4 => true

/-! ### The words (10.7) -/

/-- DEVICE_FLAGS (R175). -/
def DeviceFlags.word (f : DeviceFlags) : Word :=
  flagBit 0 f.apertureMisuse ||| flagBit 1 f.configRefused ||| flagBit 2 f.commitRejected |||
    flagBit 3 f.bandConfig ||| flagBit 4 f.monSequence ||| flagBit 5 f.consumerRefused ||| flagBit 6 f.drained

/-- DEVICE_STATE (R178). -/
def State.deviceStateWord (s : State) : Word :=
  let c := State.causes s
  field 0 s.board.toNat ||| flagBit 16 s.boardOpen ||| flagBit 17 s.resetPending ||| flagBit 18 s.holdEngaged |||
    field 19 (Band.code s.band.current) ||| flagBit 21 s.band.noTempYet ||| flagBit 22 c.ring |||
    flagBit 23 c.guard ||| flagBit 24 c.writerFault ||| flagBit 25 c.flags ||| flagBit 26 s.noticeAsserted

/-- RING_STATE (R120). -/
def Writer.ringStateWord (w : Writer) : Word :=
  field 0 (WriterState.code w.state) ||| field 2 (FailedWrite.code w.failed) |||
    field 4 (failResponseCode w.failResponse) ||| field 8 w.sizeCode.toNat ||| field 16 (Writer.fill w)

/-- TEMP_STATE (R82). -/
def BandSelector.word (b : BandSelector) : Word :=
  field 0 b.last.toNat ||| field 16 (Band.code b.current) ||| flagBit 18 b.noTempYet |||
    flagBit 19 (BandSelector.ordered b)

/-- CH_STATUS of a channel (R62). -/
def Channel.statusWord (c : Channel) : Word :=
  field 0 (ChState.code c.state) ||| field 3 c.step.toNat ||| field 16 (ResultCode.code c.lastResult) |||
    field 20 c.retries.toNat ||| field 24 (RetryCause.code c.lastRetry) ||| flagBit 26 c.contactSeen |||
    flagBit 27 c.chainSuppressed ||| flagBit 28 c.carried ||| flagBit 29 c.touchHeld

/-- SRC_STATUS of a source (R138). -/
def Source.statusWord (r : Source) : Word :=
  flagBit 0 r.trips.overI ||| flagBit 1 r.trips.overV ||| flagBit 2 r.trips.overP ||| flagBit 3 r.seqInd |||
    field 4 r.history.length ||| flagBit 7 r.half.isSome ||| flagBit 8 (GuardMode.isAvg4 r.mode) |||
    flagBit 9 r.holdEnable ||| flagBit 10 (Source.holdsMotion r)

/-- The queue positions of HOLD_QUEUE, from position `p` on (R106). -/
def queueFields : Nat → List ChanNo → Word
  | _, [] => 0
  | p, ch :: rest => field (3 * p + 4) ch.val ||| queueFields (p + 1) rest

/-- HOLD_QUEUE (R106). -/
def State.holdQueueWord (s : State) : Word := field 0 s.queue.length ||| queueFields 0 s.queue

/-- IW0 of an entry (R16). -/
def Entry.iw0 (e : Entry) : Word :=
  flagBit 0 e.valid ||| field 1 (CommitStatus.code e.status) ||| flagBit 3 e.learn.derived |||
    field 4 e.learn.count ||| field 8 e.generation.toNat ||| field 16 e.runs

/-- IW1 of an entry: last learned board, and bits 39:32 of the learned sum (R16). -/
def Entry.iw1 (e : Entry) : Word :=
  field 0 e.learn.lastBoard.toNat ||| field 16 (e.learn.sum.extractLsb' 32 8).toNat

/-- The inspect window of an entry, IW0 to IW7 (R16). -/
def Entry.inspectWord (e : Entry) (k : Nat) : Word :=
  match k with
  | 0 => Entry.iw0 e
  | 1 => Entry.iw1 e
  | 2 => e.learn.sum.extractLsb' 0 32
  | 3 => e.learn.least
  | 4 => e.learn.greatest
  | 5 => BitVec.ofInt 32 (LearnRecord.mean e.learn)
  | 6 => e.learn.derivedLow
  | _ => e.learn.derivedHigh

/-- A word of the inspect window; all zeros while the pointer is 8191 (R16, R17). -/
def State.inspectWord (s : State) (k : Nat) : Word :=
  if s.inspect = noStep then 0 else Entry.inspectWord (s.entry s.inspect.toNat) k

/-- The live word number `w`, counted from aperture offset 0x42000; an unassigned offset reads 0 (R155, 10.7). -/
def State.liveWord (s : State) (w : Nat) : Word :=
  match w with
  | 0 => DeviceFlags.word s.flags
  | 1 => s.deviceStateWord
  | 2 => field 0 (ResultCode.code s.devResult)
  | 3 => s.timebase
  | 4 => s.writer.producer.setWidth 32
  | 5 => s.writer.consumer.setWidth 32
  | 6 => Writer.ringStateWord s.writer
  | 7 => BandSelector.word s.band
  | 20 => s.holdQueueWord
  | _ =>
    if h : 8 ≤ w ∧ w < 16 then Channel.statusWord (s.ch ⟨w - 8, by omega⟩)
    else if h : 16 ≤ w ∧ w < 20 then Source.statusWord (s.src ⟨w - 16, by omega⟩)
    else if 32 ≤ w ∧ w < 40 then s.inspectWord (w - 32)
    else 0

/-- The live doubleword at an address; 0 outside the live area (R155). -/
def State.liveBeat (s : State) (a : Addr) : Beat :=
  match apertureOffset s.apBase (dwordOf a) with
  | some off =>
    if areaOf off = .live then beatOf (s.liveWord (off % 0x100 / 4)) (s.liveWord (off % 0x100 / 4 + 1))
    else 0
  | none => 0

/-- The beats of a live read, all taken at its arrival (R155). -/
def State.liveBeats (s : State) (b : Burst) : List Beat :=
  (List.range (Burst.beats b)).map fun i => s.liveBeat (Burst.beatAddr b i)

end Sys2Proof.Machine
end

