-- ==== Sys2Proof/Machine/Path.lean ====
section
/-! DEFINITION. The transaction path: classification of read bursts, the two outstanding lists, the shared upstream channels,
the downstream write arbiter, and live writes (R140, R147, R148, R151 to R161). -/

namespace Sys2Proof.Machine

open Sys2Proof

/-! ### Arrival of a read burst (R140, R148, R151) -/

/-- Whether an address lies in the move window (R140). -/
def MoveWindow.contains (m : MoveWindow) (a : Addr) : Bool := decide ((a - m.base).toNat < m.len.toNat)

/-- Whether an ID agrees with MOTION_ID in every bit that the mask sets (R140). -/
def MoveWindow.agrees (m : MoveWindow) (id : BusId) : Bool := (id ^^^ m.id) &&& m.mask == 0#16

/-- The four conditions of a held read (R140). -/
def State.isHeldRead (s : State) (o : Offer) : Bool :=
  s.holdEngaged && MoveWindow.contains s.move o.burst.addr && MoveWindow.agrees s.move o.id &&
    !inLiveArea s.apBase o.burst.addr && !inWordArea s.apBase o.burst.addr

/-- How a read burst is treated (R151). -/
inductive ReadClass where
  | live | forwarded | held
  deriving DecidableEq, Repr

/-- The treatment of a read burst, by precedence (R151). -/
def State.readClass (s : State) (o : Offer) : ReadClass :=
  if Burst.touchesLive s.apBase o.burst then .live
  else if inWordArea s.apBase o.burst.addr then .forwarded
  else if s.isHeldRead o then .held
  else .forwarded

/-- An entry that waits for the downstream read address channel; until that channel takes it, its address is not
accepted upstream (R148). -/
def ReadEntry.waits (e : ReadEntry) : Bool := e.kind == .forwarded false

/-- Whether a read address can be offered upstream and arrive: the outstanding read list has room (R157), and no forwarded
burst that has not been accepted yet holds the upstream read address channel (R148; log 15). -/
def State.readRoom (s : State) : Bool :=
  decide (s.reads.length < Config.listCapacity) && !s.reads.any ReadEntry.waits

/-- An entry joins the tail of the outstanding read list (R157). -/
def addRead (o : Offer) (k : ReadKind) (s : State) : State :=
  { s with reads := s.reads ++ [{ id := o.id, burst := o.burst, kind := k }] }

/-- A live read arrives: its values are taken, and then DEVICE_FLAGS is cleared where it covers it (R155, R156). -/
def liveReadArrives (o : Offer) (s : State) : State :=
  let s' := addRead o (.live (s.liveBeats o.burst)) s
  if Burst.coversFlags s.apBase o.burst then { s' with flags := .clear } else s'

/-- A held read arrives with the hold pattern of its arrival (R141). -/
def heldReadArrives (o : Offer) (s : State) : State := addRead o (.held s.move.pattern) s

/-- A forwarded read arrives and waits for the downstream read address channel (R148). -/
def forwardedReadArrives (o : Offer) (s : State) : State := addRead o (.forwarded false) s

/-- The waiting forwarded entry marked as taken downstream. -/
def markTaken : List ReadEntry → List ReadEntry
  | [] => []
  | e :: rest => if ReadEntry.waits e then { e with kind := .forwarded true } :: rest else e :: markTaken rest

/-- The downstream read address channel takes the waiting forwarded burst, unchanged, under its ID with bit 16
clear (R147, R153). -/
def takeReadAddr (s : State) : State :=
  match s.reads.find? ReadEntry.waits with
  | some e => emit (.downReadAddr (e.id.setWidth 17) e.burst) { s with reads := markTaken s.reads }
  | none => s

/-! ### Return of read data (R157, R158) -/

/-- An entry that the part answers. -/
def ReadEntry.byPart (e : ReadEntry) : Bool :=
  match e.kind with
  | .forwarded _ => false
  | .live _ => true
  | .held _ => true

/-- The oldest ready part entry: no older entry of the list has its ID (R157, R158). -/
def readyRead : List BusId → List ReadEntry → Option ReadEntry
  | _, [] => none
  | older, e :: rest =>
    if ReadEntry.byPart e && !older.contains e.id then some e else readyRead (e.id :: older) rest

/-- The oldest entry of an ID. -/
def oldestRead (id : BusId) (l : List ReadEntry) : Option ReadEntry := l.find? fun e => e.id == id

/-- The list without the oldest entry of an ID. -/
def removeRead (id : BusId) (l : List ReadEntry) : List ReadEntry := l.eraseP fun e => e.id == id

/-- Whether memory's beat of an ID is taken from the downstream channel: the oldest entry of the ID is a forwarded one
that memory has been given (R157). -/
def State.memoryReadCounts (s : State) (id : BusId) : Bool :=
  match oldestRead id s.reads with
  | some e => e.kind == .forwarded true
  | none => false

/-- Memory's turn on the read data channel: no part entry is ready, or the part was served last (R158). -/
def State.memoryReadTurn (s : State) : Bool := (readyRead [] s.reads).isNone || s.servedRead == .part

/-- The part's turn on the read data channel: memory has nothing waiting that counts, or was served last (R158). -/
def State.partReadTurn (s : State) (memory : Option BusId) : Bool :=
  (match memory with
   | some id => !s.memoryReadCounts id
   | none => true) || s.servedRead == .memory

/-- A read data beat of memory is passed upstream unchanged; the entry leaves with its last beat (R153, R157). -/
def returnReadBeat (id : BusId) (data : Beat) (resp : Resp) (last : Bool) (s : State) : State :=
  emit (.upReadBeat id data resp last)
    { s with servedRead := .memory, reads := if last then removeRead id s.reads else s.reads }

/-- The 64-bit values that an entry of the part returns (R141, R155). -/
def ReadEntry.values (e : ReadEntry) : List Beat :=
  match e.kind with
  | .live vs => vs
  | .held p => List.replicate (Burst.beats e.burst) (beatOf p p)
  | .forwarded _ => []

/-- The transfers of an entry's beats, all OKAY, the last one marked (R141, R155). -/
def readTransfers (id : BusId) : List Beat → List PortTransfer
  | [] => []
  | [d] => [.upReadBeat id d .okay true]
  | d :: rest => .upReadBeat id d .okay false :: readTransfers id rest

/-- The beats of the oldest ready part entry are returned together, and it leaves the list (R158). -/
def returnPartBeats (e : ReadEntry) (s : State) : State :=
  { s with trace := s.trace ++ readTransfers e.id (ReadEntry.values e), servedRead := .part,
           reads := removeRead e.id s.reads }

/-! ### Write bursts (R148, R152, R154, R157) -/

/-- Whether the outstanding write list has room (R157). -/
def State.writeRoom (s : State) : Bool := decide (s.writes.length < Config.listCapacity)

/-- Whether the last data beat of an entry has arrived. -/
def WriteEntry.complete (e : WriteEntry) : Bool := decide (Burst.beats e.burst ≤ e.arrived)

/-- Whether an entry is a live one (R154). -/
def WriteEntry.isLive (e : WriteEntry) : Bool :=
  match e.kind with
  | .live _ => true
  | .forwarded => false

/-- An entry joins the tail of the outstanding write list (R157). -/
def addWrite (o : Offer) (k : WriteEntryKind) (s : State) : State :=
  { s with writes := s.writes ++ [{ id := o.id, burst := o.burst, kind := k, arrived := 0 }] }

/-- The burst whose data beats come next: the oldest that has beats to come (R148, R160). -/
def State.openWrite (s : State) : Option WriteEntry := s.writes.find? fun e => !WriteEntry.complete e

/-- Change the oldest entry that has beats to come. -/
def updateOpen (f : WriteEntry → WriteEntry) : List WriteEntry → List WriteEntry
  | [] => []
  | e :: rest => if WriteEntry.complete e then e :: updateOpen f rest else f e :: rest

/-- An entry with one more beat arrived. -/
def WriteEntry.beatArrived (e : WriteEntry) : WriteEntry := { e with arrived := e.arrived + 1 }

/-- Whether the next beat of an entry is its last. -/
def WriteEntry.nextIsLast (e : WriteEntry) : Bool := e.arrived + 1 == Burst.beats e.burst

/-- Byte lanes of the next beat of an entry that are enabled (R163; log 14). -/
def WriteEntry.enabled (e : WriteEntry) (strb : BitVec 8) : BitVec 8 := strb &&& Burst.lanes e.burst e.arrived

/-- A data beat of a forwarded burst is accepted and forwarded, the writer's data follow where their turn has come, and
the words are handed to the classes that claim them (R148, R150, R152, R160). -/
def forwardBeat (e : WriteEntry) (data : Beat) (strb : BitVec 8) (s : State) : State :=
  let s1 := emit (.downWriteBeat data strb (WriteEntry.nextIsLast e))
    { s with writes := updateOpen WriteEntry.beatArrived s.writes }
  let s2 := if WriteEntry.nextIsLast e then forwardedDataDone s1 else s1
  handBeat (dwordOf (Burst.beatAddr e.burst e.arrived)) (WriteEntry.enabled e strb) data s2

/-- Whether the next beat of an entry carries a present word in the live area (R154). -/
def State.liveWordPresent (s : State) (e : WriteEntry) (strb : BitVec 8) : Bool :=
  WriteEntry.enabled e strb != 0#8 && inLiveArea s.apBase (Burst.beatAddr e.burst e.arrived)

/-- A live entry that has raised APERTURE_MISUSE. -/
def WriteEntry.flag (e : WriteEntry) : WriteEntry := { e with kind := .live true }

/-- A data beat of a live burst: APERTURE_MISUSE at the first beat with a present live word, once for the burst, and
nothing else (R154, R175). -/
def liveBeatArrives (e : WriteEntry) (strb : BitVec 8) (s : State) : State :=
  if s.liveWordPresent e strb && e.kind == .live false then
    raiseMisuse { s with writes := updateOpen (fun e => WriteEntry.flag (WriteEntry.beatArrived e)) s.writes }
  else { s with writes := updateOpen WriteEntry.beatArrived s.writes }

/-! ### Write responses (R152, R154, R157, R158) -/

/-- The oldest ready LIVE entry: its data have arrived and no older entry of the list has its ID (R154, R157). -/
def readyWrite : List BusId → List WriteEntry → Option WriteEntry
  | _, [] => none
  | older, e :: rest =>
    if WriteEntry.isLive e && WriteEntry.complete e && !older.contains e.id then some e
    else readyWrite (e.id :: older) rest

/-- The oldest entry of an ID. -/
def oldestWrite (id : BusId) (l : List WriteEntry) : Option WriteEntry := l.find? fun e => e.id == id

/-- The list without the oldest entry of an ID. -/
def removeWrite (id : BusId) (l : List WriteEntry) : List WriteEntry := l.eraseP fun e => e.id == id

/-- Whether memory's response of an ID is taken: the oldest entry of the ID is a forwarded burst whose data have all
gone (R157). -/
def State.memoryRespCounts (s : State) (id : BusId) : Bool :=
  match oldestWrite id s.writes with
  | some e => e.kind == .forwarded && WriteEntry.complete e
  | none => false

/-- Memory's turn on the write response channel (R158). -/
def State.memoryRespTurn (s : State) : Bool := (readyWrite [] s.writes).isNone || s.servedResp == .part

/-- The part's turn on the write response channel (R158). -/
def State.partRespTurn (s : State) (memory : Option BusId) : Bool :=
  (match memory with
   | some id => !s.memoryRespCounts id
   | none => true) || s.servedResp == .memory

/-- A response returned upstream; its entry leaves the list (R152, R154, R157). -/
def returnResponse (id : BusId) (resp : Resp) (who : Served) (s : State) : State :=
  emit (.upWriteResp id resp) { s with servedResp := who, writes := removeWrite id s.writes }

/-! ### The downstream write arbiter (R159) -/

/-- Whether the writer's request was waiting when a grant was made: it requests, and where the grant was made before
its request, that request is not a fresh one (R159; log 9). -/
def State.writerWaits (s : State) (beforeWriter : Bool) : Bool :=
  match s.writer.flight with
  | some f =>
    match f.phase with
    | .request fresh => !(beforeWriter && fresh)
    | .data _ => false
    | .response => false
  | none => false

/-- Whether a forwarded address waits: a burst that the part does not complete itself, with room in the write list
(R148, R157, R159). -/
def State.forwardedWaits (s : State) (o : Offer) : Bool := !Burst.touchesLive s.apBase o.burst && s.writeRoom

/-- Which requester is granted (R159). -/
def arbitrate (forwarded writer : Bool) (last : Requester) : Option Requester :=
  match forwarded, writer with
  | false, false => none
  | true, false => some .forwarded
  | false, true => some .writer
  | true, true => if last = .forwarded then some .writer else some .forwarded

/-- A write in flight whose request a completed grant has passed over (R159). -/
def Flight.passedOver (f : Flight) : Flight :=
  match f.phase with
  | .request _ => { f with phase := .request false }
  | .data _ => f
  | .response => f

/-- The downstream channel takes a forwarded address: the burst is accepted upstream and joins the write list (R148,
R152, R157). -/
def grantForwarded (o : Offer) (s : State) : State :=
  emit (.downWriteAddr (o.id.setWidth 17) o.burst)
    (addWrite o .forwarded
      { s with lastGrant := .forwarded,
               writer := { s.writer with flight := s.writer.flight.map Flight.passedOver } })

/-- Forwarded bursts that have data beats to come: the ones ahead of the writer's data (R160). -/
def State.openForwarded (s : State) : Nat :=
  (s.writes.filter fun e => !WriteEntry.isLive e && !WriteEntry.complete e).length

/-- The downstream channel takes the writer's address, and its data follow in grant order (R159, R160). -/
def grantWriter (f : Flight) (s : State) : State :=
  sendWriterData (emit (.downWriteAddr Config.reservedId (Flight.burst f s.freeCount))
    { s with lastGrant := .writer, freeCount := s.freeCount + 1,
             writer := { s.writer with flight := some { f with phase := .data s.openForwarded } } })

/-- The grant of the downstream write address channel completes (R159). -/
def completeGrant (o : Option Offer) (beforeWriter : Bool) (s : State) : State :=
  let fwd : Bool := match o with
    | some o => s.forwardedWaits o
    | none => false
  match arbitrate fwd (s.writerWaits beforeWriter) s.lastGrant, o, s.writer.flight with
  | some .forwarded, some o, _ => grantForwarded o s
  | some .writer, _, some f => grantWriter f s
  | _, _, _ => s

end Sys2Proof.Machine
end

