-- ==== Sys2Proof/Machine/ResetFamily.lean ====
section
/-! DEFINITION. Meanings of HARDWARE_RESET, RESET_N_RELEASE, TIMEBASE_INCREMENT and DEADLINE_EXPIRY. -/

namespace Sys2Proof.Machine

open Sys2Proof

/-- The part after RESET_N is asserted: every block at its hardware-reset values, all traffic abandoned, RESET_N low. The
sender's queue, what the ports have shown, the free-value counter and, until the release, the aperture base stay (R18,
R33, R64, R83, R123, R146, R165; log 25). -/
def assertReset (s : State) : State :=
  { State.reset with pending := s.pending, trace := s.trace, freeCount := s.freeCount, apBase := s.apBase,
                     resetN := false }

/-- HARDWARE_RESET (R165). -/
def execHardwareReset (s : State) : Result := .next (assertReset s)

/-- The release of RESET_N: the straps are sampled and fix the aperture base, and the first timebase increment is
TIMEBASE_DIV cycles away (R35, R166). It occurs only while RESET_N is low. -/
def releaseReset (straps : BitVec 8) (s : State) : State :=
  if s.resetN then s else { s with resetN := true, apBase := straps, divCount := 0 }

/-- RESET_N_RELEASE (R166). -/
def execResetNRelease (straps : BitVec 8) (s : State) : Result := .next (releaseReset straps s)

/-- TIMEBASE_INCREMENT (R35, R37): the increment alone; DEADLINE_EXPIRY takes the expiries that it reaches (log 4). -/
def execTimebaseIncrement (s : State) : Result := .next (whileUp countUp s)

/-- DEADLINE_EXPIRY of a channel (R37, R51). -/
def execDeadlineExpiry (ch : ChanNo) (s : State) : Result := .next (whileUp (takeExpiry ch) s)

end Sys2Proof.Machine
end

