-- ==== Sys2Proof/Machine/StepFamily.lean ====
section
/-! DEFINITION. Meanings of the commands on words of the step area and on partial-strobe and unassigned aperture words. -/

namespace Sys2Proof.Machine

open Sys2Proof

/-- STEP_WORD_WRITE (R4, R7, R8): forwarded to memory, and the entry edited. -/
def execStepWordWrite (entry : Fin 8191) (word : Fin 7) (value : Word) (s : State) : Result :=
  .next (whileUp
    (fun s => editEntry entry.val word.val value (forwardOffset (stepOffset entry.val word.val) 0xF#4 value s)) s)

/-- COMMIT (R4, R9): forwarded to memory, and the entry committed. -/
def execCommit (entry : Fin 8191) (value : Word) (s : State) : Result :=
  .next (whileUp (fun s => commitEntry entry.val value (forwardOffset (stepOffset entry.val 7) 0xF#4 value s)) s)

/-- ENTRY_8191_WRITE (R2): forwarded to memory, and misuse. -/
def execEntry8191Write (word : Fin 8) (value : Word) (s : State) : Result :=
  .next (whileUp (fun s => raiseMisuse (forwardOffset (stepOffset 8191 word.val) 0xF#4 value s)) s)

/-- PARTIAL_STROBE_WORD (R6, R168): memory takes the enabled bytes, and misuse. -/
def execPartialStrobeWord (offset : BitVec 20) (strb : BitVec 4) (value : Word) (s : State) : Result :=
  .next (whileUp
    (fun s => if namesPartialWord offset.toNat strb then raiseMisuse (forwardOffset offset.toNat strb value s)
              else s) s)

/-- UNASSIGNED_APERTURE_WRITE (R150, R168): forwarded to memory, with no effect in the part. -/
def execUnassignedApertureWrite (offset : BitVec 20) (value : Word) (s : State) : Result :=
  .next (whileUp
    (fun s => if namesUnassigned offset.toNat then forwardOffset offset.toNat 0xF#4 value s else s) s)

end Sys2Proof.Machine
end

