-- ==== Sys2Proof/Machine/ConfigFamily.lean ====
section
/-! DEFINITION. Meanings of the writes to configuration words. -/

namespace Sys2Proof.Machine

open Sys2Proof

/-- A full-word write to a configuration word while the part is up: forwarded to memory whether it is taken or refused,
and taken as its owner states (R167). -/
def configWrite (w : ConfigWord) (value : Word) (take : State → State) (s : State) : State :=
  whileUp (fun s => take (forwardOffset (ConfigWord.offset w) 0xF#4 value s)) s

/-- The word of a RING_CTRL write: bits 31:1, and the enable field in bit 0 (R109). -/
def ringCtrlValue (high : BitVec 31) (enable : Bool) : Word := high ++ BitVec.ofBool enable

/-- TIMEBASE_DIV_WRITE (R36). -/
def execTimebaseDivWrite (value : Word) (s : State) : Result :=
  .next (configWrite .timebaseDiv value (takeTimebaseDiv value) s)

/-- LEARN_TARGET_WRITE (R89). -/
def execLearnTargetWrite (value : Word) (s : State) : Result :=
  .next (configWrite .learnTarget value (takeLearnTarget value) s)

/-- NOTICE_ENABLE_WRITE (R179). -/
def execNoticeEnableWrite (value : Word) (s : State) : Result :=
  .next (configWrite .noticeEnable value (takeNoticeEnable value) s)

/-- RING_LEVEL_WRITE (R121). -/
def execRingLevelWrite (value : Word) (s : State) : Result :=
  .next (configWrite .ringLevel value (takeRingLevel value) s)

/-- RING_BASE_WRITE (R108). -/
def execRingBaseWrite (value : Word) (s : State) : Result :=
  .next (configWrite .ringBase value (takeRingBase value) s)

/-- RING_SIZE_WRITE (R108). -/
def execRingSizeWrite (value : Word) (s : State) : Result :=
  .next (configWrite .ringSize value (takeRingSize value) s)

/-- RING_PROD_ADDR_WRITE (R108). -/
def execRingProdAddrWrite (value : Word) (s : State) : Result :=
  .next (configWrite .ringProdAddr value (takeRingProdAddr value) s)

/-- RING_ENABLE (R109). -/
def execRingEnable (high : BitVec 31) (s : State) : Result :=
  .next (configWrite .ringCtrl (ringCtrlValue high true) ringEnable s)

/-- RING_DISABLE (R110). -/
def execRingDisable (high : BitVec 31) (s : State) : Result :=
  .next (configWrite .ringCtrl (ringCtrlValue high false) ringDisable s)

/-- BAND_T_WRITE (R76). -/
def execBandTWrite (threshold : Fin 3) (value : Word) (s : State) : Result :=
  .next (configWrite (.bandT threshold) value (takeBandT threshold value) s)

/-- BAND_HYST_WRITE (R76). -/
def execBandHystWrite (value : Word) (s : State) : Result :=
  .next (configWrite .bandHyst value (takeBandHyst value) s)

/-- RANGE_SHIFT_WRITE (R30). -/
def execRangeShiftWrite (range : Fin 8) (value : Word) (s : State) : Result :=
  .next (configWrite (.rangeShift range) value (takeRangeShift range value) s)

/-- COMP_WRITE (R68). -/
def execCompWrite (kind : Fin 6) (band : Fin 4) (value : Word) (s : State) : Result :=
  .next (configWrite (.comp kind band) value (takeComp kind band value) s)

/-- SAMPLE_BASE_WRITE (R22). -/
def execSampleBaseWrite (ch : ChanNo) (value : Word) (s : State) : Result :=
  .next (configWrite (.sampleBase ch) value (takeSampleBase ch value) s)

/-- SAMPLE_LEN_WRITE (R22). -/
def execSampleLenWrite (ch : ChanNo) (value : Word) (s : State) : Result :=
  .next (configWrite (.sampleLen ch) value (takeSampleLen ch value) s)

/-- MON_BASE_WRITE (R125). -/
def execMonBaseWrite (src : SrcNo) (value : Word) (s : State) : Result :=
  .next (configWrite (.monBase src) value (takeMonBase src value) s)

/-- MON_LEN_WRITE (R125). -/
def execMonLenWrite (src : SrcNo) (value : Word) (s : State) : Result :=
  .next (configWrite (.monLen src) value (takeMonLen src value) s)

/-- I_LIMIT_WRITE (R130). -/
def execILimitWrite (src : SrcNo) (value : Word) (s : State) : Result :=
  .next (configWrite (.iLimit src) value (takeILimit src value) s)

/-- V_LIMIT_WRITE (R130). -/
def execVLimitWrite (src : SrcNo) (value : Word) (s : State) : Result :=
  .next (configWrite (.vLimit src) value (takeVLimit src value) s)

/-- P_LIMIT_WRITE (R130). -/
def execPLimitWrite (src : SrcNo) (value : Word) (s : State) : Result :=
  .next (configWrite (.pLimit src) value (takePLimit src value) s)

/-- PERIOD_WRITE (R130). -/
def execPeriodWrite (src : SrcNo) (value : Word) (s : State) : Result :=
  .next (configWrite (.period src) value (takePeriod src value) s)

/-- GUARD_CTRL_WRITE (R130, R139). -/
def execGuardCtrlWrite (src : SrcNo) (value : Word) (s : State) : Result :=
  .next (configWrite (.guardCtrl src) value (takeGuardCtrl src value) s)

/-- MOVE_BASE_WRITE (R144). -/
def execMoveBaseWrite (value : Word) (s : State) : Result :=
  .next (configWrite .moveBase value (takeMoveBase value) s)

/-- MOVE_LEN_WRITE (R144). -/
def execMoveLenWrite (value : Word) (s : State) : Result :=
  .next (configWrite .moveLen value (takeMoveLen value) s)

/-- MOTION_ID_WRITE (R144). -/
def execMotionIdWrite (value : Word) (s : State) : Result :=
  .next (configWrite .motionId value (takeMotionId value) s)

/-- MOTION_ID_MASK_WRITE (R144). -/
def execMotionIdMaskWrite (value : Word) (s : State) : Result :=
  .next (configWrite .motionIdMask value (takeMotionIdMask value) s)

/-- HOLD_PATTERN_WRITE (R144). -/
def execHoldPatternWrite (value : Word) (s : State) : Result :=
  .next (configWrite .holdPattern value (takeHoldPattern value) s)

end Sys2Proof.Machine
end

