-- ==== Sys2Proof/Machine/CommandFamily.lean ====
section
/-! DEFINITION. Meanings of the writes to command words: channel commands, device commands, CONSUMER, TEMP and INSPECT. -/

namespace Sys2Proof.Machine

open Sys2Proof

/-- A full-word write to a command word while the part is up: forwarded to memory, and taken (R40, R167, R169). -/
def commandWrite (w : CommandWord) (value : Word) (take : State → State) (s : State) : State :=
  whileUp (fun s => take (forwardOffset (CommandWord.offset w) 0xF#4 value s)) s

/-- ARM (R41, R42). -/
def execArm (ch : ChanNo) (arg : BitVec 24) (s : State) : Result :=
  .next (commandWrite (.chCmd ch) (commandValue 1 arg) (channelArm ch arg) s)

/-- ABORT (R43): the argument is ignored. -/
def execAbort (ch : ChanNo) (arg : BitVec 24) (s : State) : Result :=
  .next (commandWrite (.chCmd ch) (commandValue 2 arg) (channelAbort ch) s)

/-- CH_CMD_UNKNOWN (R40): BAD_ARG and nothing else. A code of ARM or ABORT is not this command. -/
def execChCmdUnknown (ch : ChanNo) (op : BitVec 8) (arg : BitVec 24) (s : State) : Result :=
  .next (if unknownChOp op then commandWrite (.chCmd ch) (commandValue op arg) (setResult ch .badArg) s else s)

/-- PLAN_RESET (R171): the argument is ignored. -/
def execPlanReset (arg : BitVec 24) (s : State) : Result :=
  .next (commandWrite .devCmd (commandValue 1 arg) devPlanReset s)

/-- BOARD_OPEN (R86). -/
def execBoardOpen (arg : BitVec 24) (s : State) : Result :=
  .next (commandWrite .devCmd (commandValue 2 arg) (devBoardOpen arg) s)

/-- BOARD_CLOSE (R87): the argument is ignored. -/
def execBoardClose (arg : BitVec 24) (s : State) : Result :=
  .next (commandWrite .devCmd (commandValue 3 arg) devBoardClose s)

/-- LEARN_CLEAR (R100). -/
def execLearnClear (arg : BitVec 24) (s : State) : Result :=
  .next (commandWrite .devCmd (commandValue 4 arg) (devLearnClear arg) s)

/-- GUARD_CLEAR (R137). -/
def execGuardClear (arg : BitVec 24) (s : State) : Result :=
  .next (commandWrite .devCmd (commandValue 5 arg) (devGuardClear arg) s)

/-- DEV_CMD_UNKNOWN (R169): BAD_ARG, or BUSY while a plan reset is pending. A known code is not this command. -/
def execDevCmdUnknown (op : BitVec 8) (arg : BitVec 24) (s : State) : Result :=
  .next (if unknownDevOp op then commandWrite .devCmd (commandValue op arg) devUnknown s else s)

/-- CONSUMER_WRITE (R118). -/
def execConsumerWrite (value : Word) (s : State) : Result :=
  .next (commandWrite .consumer value (takeConsumer value) s)

/-- TEMP_WRITE (R77, R78). -/
def execTempWrite (value : Word) (s : State) : Result := .next (commandWrite .temp value (takeTemp value) s)

/-- INSPECT_WRITE (R15). -/
def execInspectWrite (value : Word) (s : State) : Result :=
  .next (commandWrite .inspect value (takeInspect value) s)

end Sys2Proof.Machine
end

