-- ==== Sys2Proof/Machine/PathFamily.lean ====
section
/-! DEFINITION. Meanings of the commands of the transaction path. -/

namespace Sys2Proof.Machine

open Sys2Proof

/-- A live write event: its address is accepted where the burst is live and the write list has room; a beat is accepted
where the oldest burst with beats to come is a live one (R148, R154). -/
def liveWriteEvent (event : LiveWrite) (s : State) : State :=
  match event with
  | .address o =>
    if Burst.touchesLive s.apBase o.burst && s.writeRoom then addWrite o (.live false) s else s
  | .beat _ strb =>
    match s.openWrite with
    | some e => if WriteEntry.isLive e then liveBeatArrives e strb s else s
    | none => s

/-- LIVE_WRITE (R154). -/
def execLiveWrite (event : LiveWrite) (s : State) : Result := .next (whileUp (liveWriteEvent event) s)

/-- LIVE_WRITE_RESPONSE (R154, R157, R158): the oldest ready LIVE entry is answered OKAY, in the part's turn. -/
def execLiveWriteResponse (memory : Option BusId) (s : State) : Result :=
  .next (whileUp (fun s =>
    match readyWrite [] s.writes with
    | some e => if s.partRespTurn memory then returnResponse e.id .okay .part s else s
    | none => s) s)

/-- LIVE_READ (R151, R155, R156): a burst that reaches the live area arrives where a read can (R148). -/
def execLiveRead (o : Offer) (s : State) : Result :=
  .next (whileUp (fun s => if s.readClass o = .live ∧ s.readRoom then liveReadArrives o s else s) s)

/-- DEVICE_FLAGS_READ (R156, R176): a live read that covers DEVICE_FLAGS. -/
def execDeviceFlagsRead (o : Offer) (s : State) : Result :=
  .next (whileUp (fun s =>
    if s.readClass o = .live ∧ Burst.coversFlags s.apBase o.burst ∧ s.readRoom then liveReadArrives o s else s) s)

/-- HELD_READ (R140, R141): a burst that meets the conditions of a held read arrives where a read can (R148). -/
def execHeldRead (o : Offer) (s : State) : Result :=
  .next (whileUp (fun s => if s.readClass o = .held ∧ s.readRoom then heldReadArrives o s else s) s)

/-- FORWARDED_READ (R148, R153): the downstream read address channel takes the waiting forwarded burst. -/
def execForwardedRead (s : State) : Result := .next (whileUp takeReadAddr s)

/-- READ_DATA_RETURN (R153, R157, R158): memory's beat is passed upstream unchanged where it is taken and it is memory's
turn; a beat for a transaction issued before the hardware reset is discarded (R165). -/
def execReadDataReturn (id : BusId) (data : Beat) (resp : Resp) (last : Bool) (issued : Issued) (s : State) : Result :=
  .next (whileUp (fun s =>
    if issued = .sinceReset ∧ s.memoryReadCounts id ∧ s.memoryReadTurn then returnReadBeat id data resp last s
    else s) s)

/-- PART_READ_BEATS_RETURN (R157, R158): the beats of the oldest ready part entry, in the part's turn. -/
def execPartReadBeatsReturn (memory : Option BusId) (s : State) : Result :=
  .next (whileUp (fun s =>
    match readyRead [] s.reads with
    | some e => if s.partReadTurn memory then returnPartBeats e s else s
    | none => s) s)

/-- FORWARDED_WRITE_RESPONSE (R152, R157, R158, R161): memory's response is returned upstream unchanged where it is taken
and it is memory's turn; one for a transaction issued before the hardware reset is discarded (R165). -/
def execForwardedWriteResponse (id : BusId) (resp : Resp) (issued : Issued) (s : State) : Result :=
  .next (whileUp (fun s =>
    if issued = .sinceReset ∧ s.memoryRespCounts id ∧ s.memoryRespTurn then returnResponse id resp .memory s
    else s) s)

/-- DOWNSTREAM_WRITE_GRANT (R148, R159, R160). -/
def execDownstreamWriteGrant (forwarded : Option Offer) (beforeWriter : Bool) (s : State) : Result :=
  .next (whileUp (completeGrant forwarded beforeWriter) s)

/-- FORWARDED_WRITE_BEAT (R148, R150, R152, R160): the next data beat of the oldest burst with beats to come, where that
is a forwarded one. -/
def execForwardedWriteBeat (data : Beat) (strb : BitVec 8) (s : State) : Result :=
  .next (whileUp (fun s =>
    match s.openWrite with
    | some e => if WriteEntry.isLive e then s else forwardBeat e data strb s
    | none => s) s)

/-- FORWARDED_READ_ARRIVAL (R148, R151): a forwarded burst arrives where a read can. -/
def execForwardedReadArrival (o : Offer) (s : State) : Result :=
  .next (whileUp (fun s => if s.readClass o = .forwarded ∧ s.readRoom then forwardedReadArrives o s else s) s)

end Sys2Proof.Machine
end

