-- ==== Sys2Proof/Machine/TapFamily.lean ====
section
/-! DEFINITION. Meanings of the tap events and of CHARGE_EXCESS. -/

namespace Sys2Proof.Machine

open Sys2Proof

/-- IN_SEQUENCE_SAMPLE (R24): a full word at the cursor of an enabled window that no class of higher precedence claims
(R31). -/
def execInSequenceSample (ch : ChanNo) (value : Word) (s : State) : Result :=
  .next (whileUp (fun s =>
    let a := (s.tap ch).cursor
    if s.classify a = .sample ch then takeSample ch value (forwardAddr a 0xF#4 value s) else s) s)

/-- Whether a present word is a stray for the tap of a channel (R24, R25, R31). -/
def State.isSampleStray (s : State) (ch : ChanNo) (addr : Addr) (strb : BitVec 4) : Bool :=
  s.classify addr == .sample ch && wordOf addr == addr && !absentStrobe strb &&
    !(fullStrobe strb && addr == (s.tap ch).cursor)

/-- SAMPLE_STRAY (R25). -/
def execSampleStray (ch : ChanNo) (addr : Addr) (strb : BitVec 4) (value : Word) (s : State) : Result :=
  .next (whileUp (fun s =>
    if s.isSampleStray ch addr strb then takeSampleStray ch addr (forwardAddr addr strb value s) else s) s)

/-- VOLTAGE_TAKEN (R127): a full word at the cursor's voltage address with the half pair empty. -/
def execVoltageTaken (src : SrcNo) (value : Word) (s : State) : Result :=
  .next (whileUp (fun s =>
    let a := (s.src src).cursor
    if s.classify a = .monitor src ∧ (s.src src).half = none then takeVoltage src value (forwardAddr a 0xF#4 value s)
    else s) s)

/-- PAIR_ARRIVAL (R127, R131): a full word at the cursor's current address with a voltage held. -/
def execPairArrival (src : SrcNo) (value : Word) (s : State) : Result :=
  .next (whileUp (fun s =>
    let a := (s.src src).cursor + 4
    match (s.src src).half with
    | some v =>
      if s.classify a = .monitor src then takeCurrent src v value (forwardAddr a 0xF#4 value s) else s
    | none => s) s)

/-- Whether a present word is a stray for the tap of a source (R127). -/
def State.isMonitorStray (s : State) (src : SrcNo) (addr : Addr) (strb : BitVec 4) : Bool :=
  s.classify addr == .monitor src && wordOf addr == addr && !absentStrobe strb &&
    Source.classify (s.src src) addr strb == .stray

/-- MONITOR_STRAY (R128). -/
def execMonitorStray (src : SrcNo) (addr : Addr) (strb : BitVec 4) (value : Word) (s : State) : Result :=
  .next (whileUp (fun s =>
    if s.isMonitorStray src addr strb then takeMonitorStray src addr (forwardAddr addr strb value s) else s) s)

/-- The source of a channel's run; source 0 without a run, which meters nothing. -/
def Channel.source (c : Channel) : SrcNo :=
  match c.snapshot with
  | some sn => sn.host.source
  | none => 0

/-- Whether the charge of a pair's current carries a channel's run over its budget (R125, R135). -/
def State.chargeExceeds (s : State) (ch : ChanNo) (current : Word) : Bool :=
  let c := s.ch ch
  let src := Channel.source c
  s.metered src ch &&
    overBudget (addCharge c.charge (chargeOf current (s.src src).period)) (Channel.budget c)

/-- CHARGE_EXCESS (R125, R135): the metering of a pair's current into one run, which it carries over its budget
(log 12). -/
def execChargeExcess (ch : ChanNo) (current : Word) (s : State) : Result :=
  .next (whileUp (fun s =>
    if s.chargeExceeds ch current then meterRun (Channel.source (s.ch ch)) current ch s else s) s)

end Sys2Proof.Machine
end

