-- ==== Sys2Proof/Machine/WriterFamily.lean ====
section
/-! DEFINITION. Meanings of the verdict writer's commands and of PLAN_RESET_COMPLETION. -/

namespace Sys2Proof.Machine

open Sys2Proof

/-- RECORD_WRITE_BEGIN (R112): the act that other events perform within themselves (log 13). -/
def execRecordWriteBegin (s : State) : Result := .next (whileUp beginWrite s)

/-- RECORD_WRITE_OKAY (R114): taken where the writer awaits the response to its record write; a response issued before
the hardware reset is not taken (R123). -/
def execRecordWriteOkay (issued : Issued) (s : State) : Result :=
  .next (whileUp (fun s =>
    if issued = .sinceReset ∧ Writer.awaits s.writer .record then recordOkay s else s) s)

/-- PUBLICATION (R115): taken where the writer awaits the response to its producer-word write. -/
def execPublication (issued : Issued) (s : State) : Result :=
  .next (whileUp (fun s =>
    if issued = .sinceReset ∧ Writer.awaits s.writer .producerWord then producerOkay s else s) s)

/-- WRITE_ERROR_RESPONSE (R116): taken where the writer awaits a response. -/
def execWriteErrorResponse (resp : ErrResp) (issued : Issued) (s : State) : Result :=
  .next (whileUp (fun s =>
    if issued = .sinceReset ∧ Writer.awaits s.writer .record then writeError .record resp s
    else if issued = .sinceReset ∧ Writer.awaits s.writer .producerWord then writeError .producerWord resp s
    else s) s)

/-- PLAN_RESET_COMPLETION (R122, R173): the response to the writer's write in flight, whatever it is, completes a pending
plan reset. -/
def execPlanResetCompletion (_resp : Resp) (issued : Issued) (s : State) : Result :=
  .next (whileUp (fun s =>
    if issued = .sinceReset ∧ s.resetPending ∧ Writer.awaitsAny s.writer then completePlanReset s else s) s)

end Sys2Proof.Machine
end

