-- ==== Sys2Proof/Machine/Dispatch.lean ====
section
/-! DEFINITION. Every command to its meaning. -/

namespace Sys2Proof.Machine

open Sys2Proof

def exec (i : Instr) (s : State) : Host.Outcome State Fault Refusal :=
  match i with
  | .hardwareReset => Sys2Proof.Machine.execHardwareReset s
  | .resetNRelease straps => Sys2Proof.Machine.execResetNRelease straps s
  | .timebaseIncrement => Sys2Proof.Machine.execTimebaseIncrement s
  | .deadlineExpiry ch => Sys2Proof.Machine.execDeadlineExpiry ch s
  | .stepWordWrite entry word value => Sys2Proof.Machine.execStepWordWrite entry word value s
  | .commit entry value => Sys2Proof.Machine.execCommit entry value s
  | .entry8191Write word value => Sys2Proof.Machine.execEntry8191Write word value s
  | .partialStrobeWord offset strb value => Sys2Proof.Machine.execPartialStrobeWord offset strb value s
  | .unassignedApertureWrite offset value => Sys2Proof.Machine.execUnassignedApertureWrite offset value s
  | .timebaseDivWrite value => Sys2Proof.Machine.execTimebaseDivWrite value s
  | .learnTargetWrite value => Sys2Proof.Machine.execLearnTargetWrite value s
  | .noticeEnableWrite value => Sys2Proof.Machine.execNoticeEnableWrite value s
  | .ringLevelWrite value => Sys2Proof.Machine.execRingLevelWrite value s
  | .ringBaseWrite value => Sys2Proof.Machine.execRingBaseWrite value s
  | .ringSizeWrite value => Sys2Proof.Machine.execRingSizeWrite value s
  | .ringProdAddrWrite value => Sys2Proof.Machine.execRingProdAddrWrite value s
  | .ringEnable high => Sys2Proof.Machine.execRingEnable high s
  | .ringDisable high => Sys2Proof.Machine.execRingDisable high s
  | .bandTWrite threshold value => Sys2Proof.Machine.execBandTWrite threshold value s
  | .bandHystWrite value => Sys2Proof.Machine.execBandHystWrite value s
  | .rangeShiftWrite range value => Sys2Proof.Machine.execRangeShiftWrite range value s
  | .compWrite kind band value => Sys2Proof.Machine.execCompWrite kind band value s
  | .sampleBaseWrite ch value => Sys2Proof.Machine.execSampleBaseWrite ch value s
  | .sampleLenWrite ch value => Sys2Proof.Machine.execSampleLenWrite ch value s
  | .monBaseWrite src value => Sys2Proof.Machine.execMonBaseWrite src value s
  | .monLenWrite src value => Sys2Proof.Machine.execMonLenWrite src value s
  | .iLimitWrite src value => Sys2Proof.Machine.execILimitWrite src value s
  | .vLimitWrite src value => Sys2Proof.Machine.execVLimitWrite src value s
  | .pLimitWrite src value => Sys2Proof.Machine.execPLimitWrite src value s
  | .periodWrite src value => Sys2Proof.Machine.execPeriodWrite src value s
  | .guardCtrlWrite src value => Sys2Proof.Machine.execGuardCtrlWrite src value s
  | .moveBaseWrite value => Sys2Proof.Machine.execMoveBaseWrite value s
  | .moveLenWrite value => Sys2Proof.Machine.execMoveLenWrite value s
  | .motionIdWrite value => Sys2Proof.Machine.execMotionIdWrite value s
  | .motionIdMaskWrite value => Sys2Proof.Machine.execMotionIdMaskWrite value s
  | .holdPatternWrite value => Sys2Proof.Machine.execHoldPatternWrite value s
  | .arm ch arg => Sys2Proof.Machine.execArm ch arg s
  | .abort ch arg => Sys2Proof.Machine.execAbort ch arg s
  | .chCmdUnknown ch op arg => Sys2Proof.Machine.execChCmdUnknown ch op arg s
  | .planReset arg => Sys2Proof.Machine.execPlanReset arg s
  | .planResetCompletion resp issued => Sys2Proof.Machine.execPlanResetCompletion resp issued s
  | .boardOpen arg => Sys2Proof.Machine.execBoardOpen arg s
  | .boardClose arg => Sys2Proof.Machine.execBoardClose arg s
  | .learnClear arg => Sys2Proof.Machine.execLearnClear arg s
  | .guardClear arg => Sys2Proof.Machine.execGuardClear arg s
  | .devCmdUnknown op arg => Sys2Proof.Machine.execDevCmdUnknown op arg s
  | .consumerWrite value => Sys2Proof.Machine.execConsumerWrite value s
  | .tempWrite value => Sys2Proof.Machine.execTempWrite value s
  | .inspectWrite value => Sys2Proof.Machine.execInspectWrite value s
  | .liveWrite event => Sys2Proof.Machine.execLiveWrite event s
  | .liveWriteResponse memory => Sys2Proof.Machine.execLiveWriteResponse memory s
  | .liveRead offer => Sys2Proof.Machine.execLiveRead offer s
  | .deviceFlagsRead offer => Sys2Proof.Machine.execDeviceFlagsRead offer s
  | .heldRead offer => Sys2Proof.Machine.execHeldRead offer s
  | .forwardedRead => Sys2Proof.Machine.execForwardedRead s
  | .readDataReturn id data resp last issued => Sys2Proof.Machine.execReadDataReturn id data resp last issued s
  | .partReadBeatsReturn memory => Sys2Proof.Machine.execPartReadBeatsReturn memory s
  | .forwardedWriteResponse id resp issued => Sys2Proof.Machine.execForwardedWriteResponse id resp issued s
  | .downstreamWriteGrant forwarded beforeWriter => Sys2Proof.Machine.execDownstreamWriteGrant forwarded beforeWriter s
  | .forwardedWriteBeat data strb => Sys2Proof.Machine.execForwardedWriteBeat data strb s
  | .inSequenceSample ch value => Sys2Proof.Machine.execInSequenceSample ch value s
  | .sampleStray ch addr strb value => Sys2Proof.Machine.execSampleStray ch addr strb value s
  | .voltageTaken src value => Sys2Proof.Machine.execVoltageTaken src value s
  | .pairArrival src value => Sys2Proof.Machine.execPairArrival src value s
  | .monitorStray src addr strb value => Sys2Proof.Machine.execMonitorStray src addr strb value s
  | .chargeExcess ch current => Sys2Proof.Machine.execChargeExcess ch current s
  | .recordWriteBegin => Sys2Proof.Machine.execRecordWriteBegin s
  | .recordWriteOkay issued => Sys2Proof.Machine.execRecordWriteOkay issued s
  | .publication issued => Sys2Proof.Machine.execPublication issued s
  | .writeErrorResponse resp issued => Sys2Proof.Machine.execWriteErrorResponse resp issued s
  | .forwardedReadArrival offer => Sys2Proof.Machine.execForwardedReadArrival offer s

end Sys2Proof.Machine
end

