-- ==== Sys2Proof/Safety.lean ====
section
/-! DEFINITION. What a safe run of the part keeps: the invariants that the rules state of every moment, and the frames in
which the statements say what an event leaves unchanged. -/

namespace Sys2Proof.Safety

open Sys2Proof Sys2Proof.Machine

/-! ### Invariants -/

/-- The step table is in its canonical form, holds nothing beyond entry 8190, and no run has 8191 as its step (R1). -/
structure TableInv (s : State) : Prop where
  canonical : Table.wf s.table = true
  usable    : ∀ n, 8191 ≤ n → s.entry n = Entry.reset
  runStep   : ∀ ch sn, (s.ch ch).snapshot = some sn → sn.step ≠ noStep

/-- Every valid entry, and every snapshot, passes the commit checks (R9, R183). -/
structure PlanInv (s : State) : Prop where
  canonical : Table.wf s.table = true
  entries   : ∀ n, (s.entry n).valid = true → HostFields.passesCommit (s.entry n).host = true
  snapshots : ∀ ch sn, (s.ch ch).snapshot = some sn → HostFields.passesCommit sn.host = true

/-- The hold queue and the channel states agree (R39, R104): a channel is in HOLDING exactly when it is queued and exactly
when it holds a verdict, a run in flight has its snapshot, only a run in flight has a deadline, and an idle channel
has neither step nor snapshot. -/
structure HoldInv (s : State) : Prop where
  nodup    : s.queue.Nodup
  queued   : ∀ ch, ch ∈ s.queue ↔ (s.ch ch).state = .holding
  held     : ∀ ch, (s.ch ch).held.isSome = true ↔ (s.ch ch).state = .holding
  snapshot : ∀ ch, Channel.inFlight (s.ch ch) = true → (s.ch ch).snapshot.isSome = true
  step     : ∀ ch sn, (s.ch ch).snapshot = some sn → (s.ch ch).step = sn.step
  deadline : ∀ ch, (s.ch ch).deadline.isSome = true → Channel.inFlight (s.ch ch) = true
  idle     : ∀ ch, (s.ch ch).state = .idle → (s.ch ch).step = noStep ∧ (s.ch ch).snapshot = none

/-- Channels in flight on a step (R12). -/
def runsOn (s : State) (n : Nat) : Nat :=
  (allChannels.filter fun ch =>
    Channel.inFlight (s.ch ch) &&
      (match (s.ch ch).snapshot with
       | some sn => sn.step.toNat == n
       | none => false)).length

/-- Every entry's runs in flight is the number of channels in flight on it (R12). -/
def RunsInv (s : State) : Prop := ∀ n, (s.entry n).runs = runsOn s n

/-- The ring and its writer (R107, R109, R111, R112, R122). -/
structure RingInv (s : State) : Prop where
  fill     : Writer.fill s.writer ≤ Writer.slots s.writer
  enabled  : s.writer.state ≠ .off → Writer.enableOk s.writer = true
  inFlight : s.writer.state = .writing ↔ s.writer.flight.isSome = true
  room     : s.writer.state = .writing → Writer.fill s.writer < Writer.slots s.writer
  head     : s.writer.state = .writing → s.queue ≠ []
  stalled  : s.writer.state = .ready → s.queue = [] ∨ Writer.fill s.writer = Writer.slots s.writer
  pending  : s.resetPending = true → s.writer.state = .writing

/-- While a source's latched trip set is non-empty, no run in flight is bound to it (R134). -/
def TripInv (s : State) : Prop :=
  ∀ src, TripSet.nonempty (s.src src).trips = true → ∀ ch, Channel.boundTo (s.ch ch) src = false

/-- Where a run in flight stands within its snapshot's counts (R44, R45, R47, R50). -/
structure RunRange (c : Channel) (sn : Snapshot) : Prop where
  retries   : c.retries.toNat ≤ sn.host.retryLimit.toNat
  seeking   : c.state = .seeking → c.touchRun < sn.host.contactRun.toNat
  settling  : c.state = .settling → 1 ≤ c.settleLeft ∧ c.settleLeft ≤ sn.host.settle.toNat
  averaging : c.state = .averaging → c.averaged < HostFields.samples sn.host

/-- Every run in flight stands within its snapshot's counts. -/
def RangeInv (s : State) : Prop :=
  ∀ ch sn, Channel.inFlight (s.ch ch) = true → (s.ch ch).snapshot = some sn → RunRange (s.ch ch) sn

/-- Board number 65535 exactly while no board is open (R85). -/
def BoardInv (s : State) : Prop := s.boardOpen = true ↔ s.board ≠ noBoard

/-- Each outstanding list holds at most 32 entries (R157), and at most one forwarded read waits for the downstream read
address channel (R148, log 15). -/
def ListsInv (s : State) : Prop :=
  s.reads.length ≤ 32 ∧ s.writes.length ≤ 32 ∧ (s.reads.filter ReadEntry.waits).length ≤ 1

/-- The divider is 1 to 1023 and its cycle count is below it (R35, R36). -/
def DividerInv (s : State) : Prop :=
  1 ≤ s.timebaseDiv.toNat ∧ s.timebaseDiv.toNat ≤ 1023 ∧ s.divCount < s.timebaseDiv.toNat

/-- A sample tap's cursor is a word of its window where the window is enabled (R23). -/
def TapOk (t : Tap) : Prop :=
  1 ≤ t.len.toNat → Tap.contains t t.cursor = true ∧ (t.cursor - t.base).toNat % 4 = 0

/-- A monitor tap's cursor is a pair of its window where the window is enabled, and its base is a doubleword
(R125, R126). -/
def MonitorOk (r : Source) : Prop :=
  r.base.toNat % 8 = 0 ∧
    (1 ≤ r.len.toNat → Source.contains r r.cursor = true ∧ (r.cursor - r.base).toNat % 8 = 0)

/-- Every sample base is a word address and every cursor lies inside its enabled window (R21, R23, R126). -/
structure CursorInv (s : State) : Prop where
  taps     : ∀ ch, (s.tap ch).base.toNat % 4 = 0 ∧ TapOk (s.tap ch)
  monitors : ∀ src, MonitorOk (s.src src)

/-- Every AVG4 history holds at most four pairs (R131). -/
def HistoryInv (s : State) : Prop := ∀ src, (s.src src).history.length ≤ 4

/-- While RESET_N is low NOTICE_N is released (R181), and no run, trip or flag is left of what was before. -/
structure ResetLineInv (s : State) : Prop where
  released : s.resetN = false → s.noticeAsserted = false
  quiet    : s.resetN = false → s.quiet = true
  enables  : s.resetN = false →
    s.notice = { ring := false, guard := false, writerFault := false, flags := false }

/-! ### Frames -/

/-- Nothing changed but the step table, the channels, the hold queue, and the writer's state and write in flight: what
an event of a run may touch. -/
structure EngineFrame (s t : State) : Prop where
  eq : t = { s with table := t.table, chans := t.chans, queue := t.queue,
                    writer := { s.writer with state := t.writer.state, flight := t.writer.flight } }

/-- The state with a transfer put on a port. -/
def sent (s : State) (p : PortTransfer) : State := { s with trace := s.trace ++ [p] }

/-- The state with a full word forwarded to memory at an aperture offset (R4, R167). -/
def sentWord (s : State) (offset : Nat) (v : Word) : State :=
  sent s (.downWord (apertureAddr s.apBase offset) 0xF#4 v)

/-! ### What the events of a run do, by the fields they change -/

/-- The verdict of a run that ends without a judged set: value 0, no qualifier flags, and the spread only of a set
rejected as NOISY (R54). -/
def unjudged (s : State) (ch : ChanNo) (c : Channel) (sn : Snapshot) (o : VerdictCode) (spread : Nat) : Verdict :=
  { step := sn.step, channel := ch, outcome := o, retries := c.retries, band := c.latchedBand, stale := false,
    repeated := false, noBoard := false, carried := c.carried,
    board := if s.boardOpen = true then s.board else 65535#16, value := 0#32,
    spread := BitVec.ofNat 16 (min spread 65535),
    elapsed := BitVec.ofNat 16 (min ((s.timebase - c.runStart).toNat / 10) 65535) }

/-- The record write that the writer begins for a held verdict: two full beats to the slot of the producer index, with
that index as the sequence (R103, R112, R113). -/
def recordFlight (w : Writer) (v : Verdict) : Flight :=
  { kind := .record, addr := w.ringBase + BitVec.ofNat 32 (w.producer.toNat % 2 ^ w.sizeCode.toNat * 16),
    beats := [(Verdict.word1 v ++ Verdict.word0 v w.producer, 0xFF#8), (Verdict.word3 v ++ Verdict.word2 v, 0xFF#8)],
    phase := .request true }

/-- Visible records not consumed, as R111 counts them. -/
def fillOf (w : Writer) : Nat := (w.producer.toNat + 65536 - w.consumer.toNat) % 65536

/-- What the queue and the writer do when a channel that holds a verdict joins the queue: it joins at the tail, and the
write of its record begins where the queue was empty, the writer READY and the ring not full (R104, R112). -/
structure Joined (ch : ChanNo) (v : Verdict) (s t : State) : Prop where
  queue  : t.queue = s.queue ++ [ch]
  begins : s.writer.state = .ready → s.queue = [] → fillOf s.writer < 2 ^ s.writer.sizeCode.toNat →
    t.writer = { s.writer with state := .writing, flight := some (recordFlight s.writer v) }
  stays  : s.writer.state ≠ .ready ∨ 2 ^ s.writer.sizeCode.toNat ≤ fillOf s.writer → t.writer = s.writer

/-- The end of a run as one act (R53): from the context `c`, with the verdict `v`, leaving the entry the learn record
`learn`. Nothing else changes. -/
structure RunEnded (ch : ChanNo) (c : Channel) (sn : Snapshot) (v : Verdict) (learn : LearnRecord) (s t : State) :
    Prop where
  context : t.ch ch = { c with
    held := some v, deadline := none, state := .holding,
    chainSuppressed := c.chainSuppressed ||
      (v.outcome == .aborted || v.outcome == .guard || v.outcome == .charge) }
  others  : ∀ j, j ≠ ch → t.ch j = s.ch j
  runs    : t.entry sn.step.toNat =
    { s.entry sn.step.toNat with runs := (s.entry sn.step.toNat).runs - 1, learn := learn }
  entries : ∀ n, n ≠ sn.step.toNat → t.entry n = s.entry n
  joined  : Joined ch v s t
  frame   : EngineFrame s t

/-- A run that ends without a judged set, from the context `c`: its verdict is `unjudged`, and the entry's learn record
stays (R53, R54, R99). -/
def EndedUnjudged (ch : ChanNo) (c : Channel) (sn : Snapshot) (o : VerdictCode) (spread : Nat) (s t : State) : Prop :=
  RunEnded ch c sn (unjudged s ch c sn o spread) (s.entry sn.step.toNat).learn s t

/-- Whether a context holds a run of step `n`. -/
def onStep (c : Channel) (n : Nat) : Bool :=
  match c.snapshot with
  | some sn => sn.step.toNat == n
  | none => false

/-- The runs of several channels end within one event, in the order given, as far as it shows beside the channels'
contexts: each entry loses the runs that end on it (R12, R53), the channels join the hold queue at its tail in that
order (R104), and the write of the first one's record begins where the queue was empty, the writer READY and the ring
not full (R112). Nothing else changes. -/
structure RunsEnded (ended : List ChanNo) (s t : State) : Prop where
  queue   : t.queue = s.queue ++ ended
  entries : ∀ n, t.entry n =
    { s.entry n with runs := (s.entry n).runs - (ended.filter fun ch => onStep (s.ch ch) n).length }
  begins  : ∀ first rest v, ended = first :: rest → (t.ch first).held = some v → s.writer.state = .ready →
    s.queue = [] → fillOf s.writer < 2 ^ s.writer.sizeCode.toNat →
    t.writer = { s.writer with state := .writing, flight := some (recordFlight s.writer v) }
  stays   : ended = [] ∨ s.writer.state ≠ .ready ∨ 2 ^ s.writer.sizeCode.toNat ≤ fillOf s.writer →
    t.writer = s.writer
  frame   : EngineFrame s t

/-- The channels whose deadline stands at the present count with their run in flight, in ascending order (R37). A run in
flight has its snapshot. -/
def dueRuns (s : State) : List ChanNo :=
  allChannels.filter fun ch =>
    Channel.inFlight (s.ch ch) && (s.ch ch).deadline == some s.timebase && (s.ch ch).snapshot.isSome

/-- Every expiry due at the present count is taken, in ascending channel order: TIMEOUT after contact, NO_CONTACT without
(R37, R51, R53, R54; the order is the model's choice, log 4). -/
structure ExpiriesTaken (s t : State) : Prop where
  ended  : ∀ ch sn, ch ∈ dueRuns s → (s.ch ch).snapshot = some sn → t.ch ch = { s.ch ch with
    held := some (unjudged s ch (s.ch ch) sn (if (s.ch ch).contactSeen = true then .timeout else .noContact) 0),
    deadline := none, state := .holding }
  others : ∀ ch, ch ∉ dueRuns s → t.ch ch = s.ch ch
  runs   : RunsEnded (dueRuns s) s t

/-- The context `c` with its averaging set cleared (R46). -/
def noSet (c : Channel) : Channel := { c with averaged := 0, sum := 0, least := 0, greatest := 0, firstRange := none }

/-- A retry from the context `c` with its cause, and the outcome that the cause names (R50). -/
structure RetryTaken (ch : ChanNo) (c : Channel) (sn : Snapshot) (cause : RetryCause) (o : VerdictCode) (spread : Nat)
    (s t : State) : Prop where
  again : c.retries.toNat < sn.host.retryLimit.toNat →
    t = s.setCh ch (noSet { c with lastRetry := cause, retries := c.retries + 1, touchRun := 0, state := .seeking })
  ended : sn.host.retryLimit.toNat ≤ c.retries.toNat →
    EndedUnjudged ch { c with lastRetry := cause } sn o spread s t

/-- The context `c` where settling begins: with samples to discard in SETTLING, without them in AVERAGING with the set
cleared and the band latched (R44, R46, R48, R58). -/
def settling (c : Channel) (count : Nat) (band : Band) : Channel :=
  if count = 0 then noSet { c with settleLeft := 0, state := .averaging, latchedBand := band }
  else { c with settleLeft := count, state := .settling }

/-- The context at the start of a run of a snapshot (R42). -/
def started (c : Channel) (sn : Snapshot) (now : BitVec 32) (band : Band) : Channel :=
  noSet { c with
    state := .seeking, step := sn.step, snapshot := some sn, runStart := now,
    deadline := if sn.host.timeLimit.toNat = 0 then none
      else some (now + BitVec.ofNat 32 (10 * sn.host.timeLimit.toNat)),
    touchRun := 0, retries := 0, charge := 0, lastRetry := .noRetry, contactSeen := false,
    chainSuppressed := false, carried := false, touchHeld := false, latchedBand := band, held := none }

/-- The snapshot of an entry of the table (R10). -/
def snapshotOf (s : State) (n : StepNo) : Snapshot :=
  { step := n, host := (s.entry n.toNat).host, generation := (s.entry n.toNat).generation }

/-- The full word at a channel's cursor forwarded, and the cursor moved to the next word of the window (R23, R24). -/
def sampleTaken (s : State) (ch : ChanNo) (w : Word) : State :=
  (sent s (.downWord (s.tap ch).cursor 0xF#4 w)).setTap ch { s.tap ch with
    cursor := if ((s.tap ch).cursor - (s.tap ch).base).toNat = 4 * ((s.tap ch).len.toNat - 1) then (s.tap ch).base
      else (s.tap ch).cursor + 4 }

/-- A stray word of a sample window forwarded with its strobes, and the cursor moved to the word after it (R25). -/
def strayTaken (s : State) (ch : ChanNo) (a : Addr) (strb : BitVec 4) (w : Word) : State :=
  (sent s (.downWord a strb w)).setTap ch { s.tap ch with
    cursor := if (a - (s.tap ch).base).toNat = 4 * ((s.tap ch).len.toNat - 1) then (s.tap ch).base else a + 4 }

/-- The pair after a pair of a monitor window (R126). -/
def pairAfter (r : Source) (p : Addr) : Addr :=
  if (p - r.base).toNat = 8 * (r.len.toNat - 1) then r.base else p + 8

/-- What the completion of a plan reset leaves of each block, as one act (R63, R122, R145, R173), and that it keeps the
rest (R174). -/
structure PlanResetDone (s t : State) : Prop where
  channels : ∀ ch, t.ch ch = noSet { s.ch ch with
    state := .idle, step := 8191#13, snapshot := none, deadline := none, held := none, touchRun := 0,
    settleLeft := 0, retries := 0, charge := 0, lastRetry := .noRetry, contactSeen := false,
    chainSuppressed := false, carried := false, touchHeld := false }
  entries  : ∀ n, t.entry n = { s.entry n with runs := 0 }
  sources  : ∀ src, t.src src = { s.src src with
    trips := { overI := false, overV := false, overP := false }, history := [], seqInd := false, half := none,
    cursor := (s.src src).base }
  cursors  : ∀ ch, t.tap ch = { s.tap ch with cursor := (s.tap ch).base }
  rest     : t = { s with
    chans := t.chans, table := t.table, srcs := t.srcs, taps := t.taps, queue := [],
    writer := { s.writer with
      producer := 0, consumer := 0, state := if s.writer.state = .off then .off else .ready, failed := .noWrite,
      failResponse := none, flight := none },
    boardOpen := false, board := 65535#16, resetPending := false, devResult := .done,
    flags := { apertureMisuse := false, configRefused := false, commitRejected := false, bandConfig := false,
               monSequence := false, consumerRefused := false, drained := false } }

/-- Every value that the rules give for a hardware reset (R18, R33, R35, R36, R64, R83, R85, R89, R123, R146, R157 to
R159, R170, R175, R179). -/
structure AtResetValues (t : State) : Prop where
  entries  : ∀ n, t.entry n =
    { host := { kind := 0, source := 0, limitMode := .fixed, avgCode := 0, policy := .never, contactRun := 0,
                retryLimit := 0, settle := 0, nextStep := 0, timeLimit := 0, lowLimit := 0, highLimit := 0,
                spreadLimit := 0, tolerance := 0, learnFloor := 0, budget := 0 },
      valid := false, status := .never, generation := 0, runs := 0,
      learn := { count := 0, lastBoard := 65535#16, least := 0, greatest := 0, sum := 0, derived := false,
                 derivedLow := 0, derivedHigh := 0 } }
  inspect  : t.inspect = 0
  taps     : ∀ ch, t.tap ch = { base := 0, len := 0, cursor := 0 }
  channels : ∀ ch, ∃ start, t.ch ch =
    { state := .idle, step := 8191#13, snapshot := none, runStart := start, deadline := none, touchRun := 0,
      contactSeen := false, settleLeft := 0, averaged := 0, sum := 0, least := 0, greatest := 0,
      firstRange := none, latchedBand := .a, retries := 0, lastRetry := .noRetry, charge := 0,
      chainSuppressed := false, carried := false, touchHeld := false, held := none, lastResult := .noResult }
  timebase : t.timebase = 0 ∧ t.timebaseDiv = 100#10
  tables   : (∀ r : Fin 8, t.rangeShift[r] = 0) ∧ (∀ k : Fin 24, t.comp[k] = 0) ∧ t.learnTarget = 3#4
  band     : t.band = { current := .a, last := 0, noTempYet := true, t1 := 0, t2 := 0, t3 := 0, hyst := 0 }
  writer   : t.queue = [] ∧ t.writer =
    { state := .off, ringBase := 0, sizeCode := 4, prodAddr := 0, ringLevel := 0, producer := 0, consumer := 0,
      failed := .noWrite, failResponse := none, flight := none }
  sources  : ∀ src, t.src src =
    { base := 0, len := 0, cursor := 0, half := none, iLimit := 0, vLimit := 0, pLimit := 0, period := 0,
      mode := .each, holdEnable := false, history := [],
      trips := { overI := false, overV := false, overP := false }, seqInd := false }
  move     : t.move = { base := 0, len := 0, id := 0, mask := 0, pattern := 0 }
  board    : t.boardOpen = false ∧ t.board = 65535#16
  device   : t.devResult = .noResult ∧ t.resetPending = false
  flags    : t.flags = { apertureMisuse := false, configRefused := false, commitRejected := false,
                         bandConfig := false, monSequence := false, consumerRefused := false, drained := false }
  notice   : t.notice = { ring := false, guard := false, writerFault := false, flags := false }
  path     : t.reads = [] ∧ t.writes = [] ∧ t.lastGrant = .forwarded ∧ t.servedRead = .part ∧ t.servedResp = .part

/-- The aperture offset and the value of a command that is a full-word write to a word of the step, configuration or
command area (R1, 10.4 to 10.6); of a channel or device command with an unknown operation code, where its code is one
(R40, R169). -/
def wordWritten : Instr → Option (Nat × Word)
  | .stepWordWrite n k v => some (n.val * 32 + k.val * 4, v)
  | .commit n v => some (n.val * 32 + 28, v)
  | .entry8191Write k v => some (0x3FFE0 + k.val * 4, v)
  | .timebaseDivWrite v => some (0x40000, v)
  | .learnTargetWrite v => some (0x40004, v)
  | .noticeEnableWrite v => some (0x40008, v)
  | .ringLevelWrite v => some (0x4000C, v)
  | .ringBaseWrite v => some (0x40010, v)
  | .ringSizeWrite v => some (0x40014, v)
  | .ringProdAddrWrite v => some (0x40018, v)
  | .ringEnable high => some (0x4001C, high ++ 1#1)
  | .ringDisable high => some (0x4001C, high ++ 0#1)
  | .bandTWrite i v => some (0x40020 + i.val * 4, v)
  | .bandHystWrite v => some (0x4002C, v)
  | .rangeShiftWrite r v => some (0x40040 + r.val * 4, v)
  | .compWrite k b v => some (0x40080 + (k.val * 4 + b.val) * 4, v)
  | .sampleBaseWrite ch v => some (0x40100 + ch.val * 8, v)
  | .sampleLenWrite ch v => some (0x40104 + ch.val * 8, v)
  | .monBaseWrite src v => some (0x40180 + src.val * 32, v)
  | .monLenWrite src v => some (0x40184 + src.val * 32, v)
  | .iLimitWrite src v => some (0x40188 + src.val * 32, v)
  | .vLimitWrite src v => some (0x4018C + src.val * 32, v)
  | .pLimitWrite src v => some (0x40190 + src.val * 32, v)
  | .periodWrite src v => some (0x40194 + src.val * 32, v)
  | .guardCtrlWrite src v => some (0x40198 + src.val * 32, v)
  | .moveBaseWrite v => some (0x40200, v)
  | .moveLenWrite v => some (0x40204, v)
  | .motionIdWrite v => some (0x40208, v)
  | .motionIdMaskWrite v => some (0x4020C, v)
  | .holdPatternWrite v => some (0x40210, v)
  | .arm ch arg => some (0x41000 + ch.val * 4, 1#8 ++ arg)
  | .abort ch arg => some (0x41000 + ch.val * 4, 2#8 ++ arg)
  | .planReset arg => some (0x41020, 1#8 ++ arg)
  | .boardOpen arg => some (0x41020, 2#8 ++ arg)
  | .boardClose arg => some (0x41020, 3#8 ++ arg)
  | .learnClear arg => some (0x41020, 4#8 ++ arg)
  | .guardClear arg => some (0x41020, 5#8 ++ arg)
  | .chCmdUnknown ch op arg =>
    if op.toNat ≠ 1 ∧ op.toNat ≠ 2 then some (0x41000 + ch.val * 4, op ++ arg) else none
  | .devCmdUnknown op arg => if op.toNat = 0 ∨ 6 ≤ op.toNat then some (0x41020, op ++ arg) else none
  | .consumerWrite v => some (0x41024, v)
  | .tempWrite v => some (0x41028, v)
  | .inspectWrite v => some (0x4102C, v)
  | _ => none

/-- The learn target is 1 or more, no learn count passes 15, and a record that has learned nothing is the cleared one
(R13, R89, R96). -/
structure LearnInv (s : State) : Prop where
  target : 1 ≤ s.learnTarget.toNat
  counts : ∀ n, (s.entry n).learn.count ≤ 15
  fresh  : ∀ n, (s.entry n).learn.count = 0 → (s.entry n).learn = LearnRecord.cleared

end Sys2Proof.Safety
end

