-- ==== Sys2Proof/Certificates/Slice0/Obligations.lean ====
section
/-! DEFINITION. The statements for the provers: what each command does, what it leaves, and what every step keeps. In all of
them the forwarding of one word to memory shows on `trace` (the model's choice, logs 1 and 7). -/

open Sys2Proof Sys2Proof.Machine Sys2Proof.Safety

/-! ### The machine -/

/-- A step with a command at the front of the queue is that command on the state with the rest of the queue. -/
def Obligations.StepRunsTheFrontCommand : Prop :=
  ∀ (c : Instr) (s : State), step { s with pending := c :: s.pending } = exec c s

/-- With no command waiting a step is one cycle of CLK (the model's choice, log 3): an expiry that is still due is taken,
the divider counts, and after TIMEBASE_DIV cycles the timebase increments and every expiry that it reaches is taken
within the step, in ascending channel order (R35, R37, R51; that order, and that an increment sent as a command leaves
its expiries to be taken, are the model's choice, log 4). No expiry is due after the step. With RESET_N low nothing
moves. -/
def Obligations.StepWithoutCommandIsOneClkCycle : Prop :=
  ∀ s : State, s.pending = [] →
    (s.resetN = false → step s = .next s) ∧
    (s.resetN = true → s.divCount + 1 < s.timebaseDiv.toNat →
      (∃ u, ExpiriesTaken s u ∧ step s = .next { u with divCount := s.divCount + 1 }) ∧
      (dueRuns s = [] → step s = .next { s with divCount := s.divCount + 1 })) ∧
    (s.resetN = true → s.timebaseDiv.toNat ≤ s.divCount + 1 →
      (∃ u t, ExpiriesTaken s u ∧ ExpiriesTaken { u with timebase := s.timebase + 1, divCount := 0 } t ∧
        step s = .next t) ∧
      (dueRuns s = [] → dueRuns { s with timebase := s.timebase + 1 } = [] →
        step s = .next { s with timebase := s.timebase + 1, divCount := 0 })) ∧
    (s.resetN = true → ∀ t, step s = .next t → dueRuns t = [])

/-- Every command answers a next state, and no command changes the queue of waiting commands; while RESET_N is low the
part takes nothing but its reset line (R165; the model's reading, log 17). -/
def Obligations.EveryCommandAnswersNext : Prop :=
  ∀ (c : Instr) (s : State),
    (∃ t, exec c s = .next t ∧ t.pending = s.pending) ∧
    (s.resetN = false → c ≠ .hardwareReset → (∀ straps, c ≠ .resetNRelease straps) → exec c s = .next s)

/-- A command that is a full-word write to an aperture word forwards the word at the offset that chapter 10 gives and
then does what the same word does in a forwarded write beat (R150, R167, 10.4 to 10.6); so do the channel and device
commands with an unknown operation code (R40, R169). A word of a sample or monitor
window does in a beat what IN_SEQUENCE_SAMPLE, SAMPLE_STRAY, VOLTAGE_TAKEN, PAIR_ARRIVAL or MONITOR_STRAY of that word
does (R24, R127, R150). A partial word of the step, configuration or command area raises APERTURE_MISUSE alone (R6,
R168); an absent word, a word of the live or pass-through offsets or of no class, and a full word at an unassigned
offset do nothing (R5, R150, R168). -/
def Obligations.WordCommandsDoWhatTheirWordsDo : Prop :=
  (∀ (c : Instr) (offset : Nat) (v : Word) (s : State), wordWritten c = some (offset, v) → s.resetN = true →
    exec c s = .next (handWord (apertureAddr s.apBase offset) 0xF#4 v (sentWord s offset v))) ∧
  (∀ (a : Addr) (strb : BitVec 4) (v : Word) (s : State), a.toNat % 4 = 0 → strb ≠ 0#4 → s.resetN = true →
    let u := handWord a strb v (sent s (.downWord a strb v))
    (∀ ch, s.classify a = .sample ch →
      let inSequence : Prop := strb = 15#4 ∧ a = (s.tap ch).cursor
      (inSequence → exec (.inSequenceSample ch v) s = .next u) ∧
      (¬ inSequence → exec (.sampleStray ch a strb v) s = .next u)) ∧
    (∀ src, s.classify a = .monitor src →
      let voltage : Prop := strb = 15#4 ∧ (s.src src).half = none ∧ a = (s.src src).cursor
      let current : Prop := strb = 15#4 ∧ (s.src src).half ≠ none ∧ a = (s.src src).cursor + 4
      (voltage → exec (.voltageTaken src v) s = .next u) ∧
      (current → exec (.pairArrival src v) s = .next u) ∧
      (¬ voltage → ¬ current → exec (.monitorStray src a strb v) s = .next u))) ∧
  (∀ (a : Addr) (strb : BitVec 4) (v : Word) (s : State),
    handWord a 0#4 v s = s ∧
    (s.classify a = .live ∨ s.classify a = .passThrough ∨ s.classify a = .other → handWord a strb v s = s) ∧
    (∀ off, s.classify a = .step off ∨ s.classify a = .config off ∨ s.classify a = .command off →
      strb ≠ 0#4 → strb ≠ 15#4 →
      handWord a strb v s = { s with flags := { s.flags with apertureMisuse := true } })) ∧
  (∀ (off : Nat) (v : Word) (s : State), off % 4 = 0 → off < 0x100000 →
    (0x41030 ≤ off ∨ 0x40214 ≤ off ∧ off < 0x41000 ∨ 0x400E0 ≤ off ∧ off < 0x40100 ∨
      0x40140 ≤ off ∧ off < 0x40180 ∨ 0x40060 ≤ off ∧ off < 0x40080 ∨ 0x40030 ≤ off ∧ off < 0x40040 ∨
      ∃ src : Fin 4, off = 0x4019C + src.val * 32) →
    handWord (apertureAddr s.apBase off) 15#4 v s = s)

/-! ### Reset and the timebase -/

/-- The state after reset has every value that the rules give; HARDWARE_RESET leaves every block at those values with
RESET_N low and NOTICE_N released. The waiting commands, what the ports have shown, the aperture base until the release
and the free-value counter stay (log 25). -/
def Obligations.HardwareResetRestoresEveryBlock : Prop :=
  AtResetValues State.reset ∧ State.reset.pending = [] ∧
  ∀ s : State, ∃ t, exec .hardwareReset s = .next t ∧ AtResetValues t ∧ t.resetN = false ∧
    t.noticeAsserted = false ∧ t.pending = s.pending ∧ t.trace = s.trace ∧ t.freeCount = s.freeCount ∧
    t.apBase = s.apBase

/-- RESET_N_RELEASE fixes the aperture base from the straps, address bits 27:20, and the first increment is TIMEBASE_DIV
cycles away (R35, R166). Without RESET_N low there is no release (the model's reading, log 2). -/
def Obligations.ResetReleaseFixesTheApertureBase : Prop :=
  ∀ (straps : BitVec 8) (s : State),
    (s.resetN = false →
      exec (.resetNRelease straps) s = .next { s with resetN := true, apBase := straps, divCount := 0 }) ∧
    (s.resetN = true → exec (.resetNRelease straps) s = .next s) ∧
    (apertureBase straps).toNat = straps.toNat * 0x100000 ∧
    ∀ a : Addr, (∃ off, apertureOffset straps a = some off) ↔
      (apertureBase straps).toNat ≤ a.toNat ∧ a.toNat < (apertureBase straps).toNat + 0x100000

/-- TIMEBASE_INCREMENT adds one to the counter modulo 2^32 and restarts the cycle count (R35). An expiry that is due at
the old count and that no command has taken is taken first, at the old count and in ascending channel order (R37, R51;
the model's choice, log 4); every other channel and everything else stays. -/
def Obligations.TimebaseIncrementCounts : Prop :=
  ∀ s : State, s.resetN = true →
    (∃ u, ExpiriesTaken s u ∧
      exec .timebaseIncrement s = .next { u with timebase := s.timebase + 1, divCount := 0 }) ∧
    (dueRuns s = [] → exec .timebaseIncrement s = .next { s with timebase := s.timebase + 1, divCount := 0 })

/-- DEADLINE_EXPIRY of a run in flight whose deadline the timebase has reached ends it, with TIMEOUT after contact and
NO_CONTACT without (R37, R51); where no deadline is reached nothing happens (the model's reading, log 2). -/
def Obligations.DeadlineExpiryEndsTheRun : Prop :=
  ∀ (ch : ChanNo) (s : State), s.resetN = true →
    (∀ sn, Channel.inFlight (s.ch ch) = true → (s.ch ch).snapshot = some sn →
      (s.ch ch).deadline = some s.timebase →
      ∃ t, exec (.deadlineExpiry ch) s = .next t ∧
        EndedUnjudged ch (s.ch ch) sn (if (s.ch ch).contactSeen = true then .timeout else .noContact) 0 s t) ∧
    (Channel.inFlight (s.ch ch) = false ∨ (s.ch ch).deadline ≠ some s.timebase →
      exec (.deadlineExpiry ch) s = .next s)

/-! ### The step table -/

/-- The bits of a step entry's words that carry each host field (R3, R4, 10.1); words 2 to 7 carry one field each, and a
word changes no field that it does not carry. The words of a verdict record hold their fields at the bits of 10.3, with
the codes of its outcomes and bands. -/
def Obligations.EntryAndRecordLayouts : Prop :=
  (∀ (h : HostFields) (v : Word),
    (let g := HostFields.take h 0 v
     g.kind.toNat = v.toNat % 8 ∧ g.source.val = v.toNat / 8 % 4 ∧
      g.limitMode = (match v.toNat / 32 % 4 with
        | 0 => .fixed
        | 1 => .learn
        | 2 => .lowOnly
        | _ => .highOnly) ∧
      g.avgCode.toNat = v.toNat / 256 % 16 ∧
      g.policy = (match v.toNat / 4096 % 4 with
        | 0 => .never
        | 1 => .onPass
        | 2 => .always
        | _ => .code3) ∧
      g.contactRun.toNat = v.toNat / 65536 % 16 ∧ g.retryLimit.toNat = v.toNat / 1048576 % 8 ∧
      g.settle.toNat = v.toNat / 16777216 ∧
      g = { h with kind := g.kind, source := g.source, limitMode := g.limitMode, avgCode := g.avgCode,
                   policy := g.policy, contactRun := g.contactRun, retryLimit := g.retryLimit,
                   settle := g.settle }) ∧
    (let g := HostFields.take h 1 v
     g.nextStep.toNat = v.toNat % 65536 ∧ g.timeLimit.toNat = v.toNat / 65536 ∧
      g = { h with nextStep := g.nextStep, timeLimit := g.timeLimit }) ∧
    HostFields.take h 2 v = { h with lowLimit := v } ∧ HostFields.take h 3 v = { h with highLimit := v } ∧
    HostFields.take h 4 v = { h with spreadLimit := v } ∧ HostFields.take h 5 v = { h with tolerance := v } ∧
    HostFields.take h 6 v = { h with learnFloor := v } ∧ HostFields.take h 7 v = { h with budget := v }) ∧
  (∀ (v : Verdict) (sequence : BitVec 16),
    (Verdict.word0 v sequence).toNat = sequence.toNat + 65536 * v.board.toNat ∧
    (Verdict.word1 v).toNat = v.step.toNat + 2 ^ 13 * v.channel.val + 2 ^ 16 * VerdictCode.code v.outcome +
      2 ^ 20 * v.retries.toNat + 2 ^ 24 * Band.code v.band + 2 ^ 26 * v.stale.toNat + 2 ^ 27 * v.repeated.toNat +
      2 ^ 28 * v.noBoard.toNat + 2 ^ 29 * v.carried.toNat ∧
    Verdict.word2 v = v.value ∧ (Verdict.word3 v).toNat = v.spread.toNat + 65536 * v.elapsed.toNat ∧
    VerdictCode.code v.outcome ≤ 13) ∧
  [VerdictCode.pass, .low, .high, .learned, .learnReject, .noContact, .lostContact, .noisy, .sequence, .timeout,
    .aborted, .guard, .charge, .chainRefused].map VerdictCode.code = List.range 14 ∧
  [Band.a, .b, .c, .d].map Band.code = List.range 4

/-- STEP_WORD_WRITE takes the word into the entry, adds one to its generation modulo 256 and makes it invalid; its commit
status, learn record and runs in flight, every other entry and the rest of the part stay (R7, R8). -/
def Obligations.StepWordWriteEditsTheEntry : Prop :=
  ∀ (n : Fin 8191) (k : Fin 7) (v : Word) (s : State), s.resetN = true →
    ∃ t, exec (.stepWordWrite n k v) s = .next t ∧
      t.entry n.val = { s.entry n.val with
        host := HostFields.take (s.entry n.val).host k.val v, generation := (s.entry n.val).generation + 1,
        valid := false } ∧
      (∀ m, m ≠ n.val → t.entry m = s.entry m) ∧
      t = { sentWord s (n.val * 32 + k.val * 4) v with table := t.table }

/-- COMMIT takes the charge budget, adds one to the generation, checks the entry as it then stands and clears its learn
record; passing makes it valid and COMMITTED, failing makes it invalid and REJECTED and raises COMMIT_REJECTED. Its
other fields, every other entry and the rest of the part stay (R7, R9). -/
def Obligations.CommitChecksTheEntry : Prop :=
  ∀ (n : Fin 8191) (v : Word) (s : State), s.resetN = true →
    let h := (s.entry n.val).host
    let passes : Prop := h.kind.toNat ≤ 5 ∧ h.avgCode.toNat ≤ 8 ∧ 1 ≤ h.contactRun.toNat ∧
      h.nextStep.toNat ≤ 8191 ∧ (h.limitMode = .fixed ∨ h.limitMode = .learn → h.lowLimit.toInt ≤ h.highLimit.toInt)
    ∃ t, exec (.commit n v) s = .next t ∧
      (passes → t.entry n.val = { s.entry n.val with
          host := { h with budget := v }, generation := (s.entry n.val).generation + 1, valid := true,
          status := .committed, learn := LearnRecord.cleared } ∧
        t = { sentWord s (n.val * 32 + 28) v with table := t.table }) ∧
      (¬ passes → t.entry n.val = { s.entry n.val with
          host := { h with budget := v }, generation := (s.entry n.val).generation + 1, valid := false,
          status := .rejected, learn := LearnRecord.cleared } ∧
        t = { sentWord s (n.val * 32 + 28) v with
          table := t.table, flags := { s.flags with commitRejected := true } }) ∧
      (∀ m, m ≠ n.val → t.entry m = s.entry m)

/-- A write to a word of entry 8191, full or partial, is forwarded and raises APERTURE_MISUSE, and nothing else in the
part changes; the entry's inspect view is all zeros (R2). The command and the word of a forwarded beat agree. -/
def Obligations.Entry8191OnlyRaisesMisuse : Prop :=
  ∀ (k : Fin 8) (v : Word) (s : State),
    (s.resetN = true → exec (.entry8191Write k v) s = .next
      { sentWord s (0x3FFE0 + k.val * 4) v with flags := { s.flags with apertureMisuse := true } }) ∧
    (∀ strb : BitVec 4, strb ≠ 0#4 → handWord (apertureAddr s.apBase (0x3FFE0 + k.val * 4)) strb v s =
      { s with flags := { s.flags with apertureMisuse := true } }) ∧
    (∀ strb : BitVec 4, strb ≠ 0#4 → strb ≠ 15#4 → s.resetN = true →
      exec (.partialStrobeWord (BitVec.ofNat 20 (0x3FFE0 + k.val * 4)) strb v) s = .next
        { sent s (.downWord (apertureAddr s.apBase (0x3FFE0 + k.val * 4)) strb v) with
          flags := { s.flags with apertureMisuse := true } }) ∧
    (s.inspect = 8191#13 → s.inspectWord k.val = 0#32)

/-- A partial-strobe word of the step, configuration or command area is forwarded with its strobes and raises
APERTURE_MISUSE; a full word at an offset without a word assigned is forwarded; nothing else changes (R6, R168). -/
def Obligations.MisusedWordsChangeNothingElse : Prop :=
  ∀ (off : BitVec 20) (v : Word) (s : State), s.resetN = true →
    (∀ strb : BitVec 4, off.toNat % 4 = 0 → off.toNat < 0x42000 → strb ≠ 0#4 → strb ≠ 15#4 →
      exec (.partialStrobeWord off strb v) s = .next
        { sent s (.downWord (apertureAddr s.apBase off.toNat) strb v) with
          flags := { s.flags with apertureMisuse := true } }) ∧
    (off.toNat % 4 = 0 →
      (0x42100 ≤ off.toNat ∨ 0x41030 ≤ off.toNat ∧ off.toNat < 0x42000 ∨
        0x40214 ≤ off.toNat ∧ off.toNat < 0x41000 ∨ 0x400E0 ≤ off.toNat ∧ off.toNat < 0x40100 ∨
        0x40140 ≤ off.toNat ∧ off.toNat < 0x40180 ∨ 0x40060 ≤ off.toNat ∧ off.toNat < 0x40080 ∨
        0x40030 ≤ off.toNat ∧ off.toNat < 0x40040 ∨ ∃ src : Fin 4, off.toNat = 0x4019C + src.val * 32) →
      exec (.unassignedApertureWrite off v) s = .next (sentWord s off.toNat v))

/-! ### Configuration words -/

/-- The configuration words that are taken at any time as written: NOTICE_ENABLE, the band thresholds and hysteresis, the
move window, the motion ID and the hold pattern (R76, R144, R179). -/
def Obligations.PlainConfigurationWordsAreTaken : Prop :=
  ∀ (v : Word) (s : State), s.resetN = true →
    exec (.noticeEnableWrite v) s = .next { sentWord s 0x40008 v with
      notice := { ring := v.getLsbD 0, guard := v.getLsbD 1, writerFault := v.getLsbD 2, flags := v.getLsbD 3 } } ∧
    exec (.bandTWrite 0 v) s = .next { sentWord s 0x40020 v with band := { s.band with t1 := v.setWidth 16 } } ∧
    exec (.bandTWrite 1 v) s = .next { sentWord s 0x40024 v with band := { s.band with t2 := v.setWidth 16 } } ∧
    exec (.bandTWrite 2 v) s = .next { sentWord s 0x40028 v with band := { s.band with t3 := v.setWidth 16 } } ∧
    exec (.bandHystWrite v) s = .next { sentWord s 0x4002C v with band := { s.band with hyst := v.setWidth 8 } } ∧
    exec (.moveBaseWrite v) s = .next { sentWord s 0x40200 v with move := { s.move with base := v } } ∧
    exec (.moveLenWrite v) s = .next { sentWord s 0x40204 v with move := { s.move with len := v } } ∧
    exec (.motionIdWrite v) s = .next { sentWord s 0x40208 v with move := { s.move with id := v.setWidth 16 } } ∧
    exec (.motionIdMaskWrite v) s = .next
      { sentWord s 0x4020C v with move := { s.move with mask := v.setWidth 16 } } ∧
    exec (.holdPatternWrite v) s = .next { sentWord s 0x40210 v with move := { s.move with pattern := v } }

/-- RING_LEVEL is taken at any time from the low 16 bits and forwarded; a partial word changes nothing and raises
misuse. The ring level is reached while it is not 0 and the fill is at least it; level 0 and, with a fill that is at
most N, a level above N are never reached; it is 0 after reset and a plan reset keeps it; it drives the RING cause
(R121). -/
def Obligations.RingLevelIsTakenAndReached : Prop :=
  (∀ (v : Word) (s : State), s.resetN = true →
    exec (.ringLevelWrite v) s = .next
      { sentWord s 0x4000C v with writer := { s.writer with ringLevel := v.setWidth 16 } }) ∧
  (∀ (strb : BitVec 4) (v : Word) (s : State), s.resetN = true → strb ≠ 0#4 → strb ≠ 15#4 →
    exec (.partialStrobeWord 0x4000C#20 strb v) s = .next
      { sent s (.downWord (apertureAddr s.apBase 0x4000C) strb v) with
        flags := { s.flags with apertureMisuse := true } }) ∧
  (∀ s : State, (State.causes s).ring = true ↔ s.writer.ringLevel.toNat ≠ 0 ∧
    s.writer.ringLevel.toNat ≤ fillOf s.writer) ∧
  (∀ s : State, fillOf s.writer ≤ 2 ^ s.writer.sizeCode.toNat →
    2 ^ s.writer.sizeCode.toNat < s.writer.ringLevel.toNat → (State.causes s).ring = false) ∧
  State.reset.writer.ringLevel = 0 ∧
  (∀ s : State, ∃ t, exec .hardwareReset s = .next t ∧ t.writer.ringLevel = 0) ∧
  (∀ s : State, (completePlanReset s).writer.ringLevel = s.writer.ringLevel)

/-- COMP is taken at any time, clamped to plus or minus 100,000, into the coefficient of its kind and band alone; the
word is forwarded unclamped (R68). -/
def Obligations.CompensationWordsAreClamped : Prop :=
  ∀ (k : Fin 6) (b : Fin 4) (v : Word) (s : State), s.resetN = true →
    ∃ t, exec (.compWrite k b v) s = .next t ∧
      (t.comp[k.val * 4 + b.val]'(by omega)).toInt =
        (if v.toInt > 100000 then 100000 else if v.toInt < -100000 then -100000 else v.toInt) ∧
      (∀ i : Fin 24, i.val ≠ k.val * 4 + b.val → t.comp[i] = s.comp[i]) ∧
      t = { sentWord s (0x40080 + (k.val * 4 + b.val) * 4) v with comp := t.comp }

/-- TIMEBASE_DIV takes 1 to 1023 and restarts the cycle count; LEARN_TARGET takes 1 to 15 with no board open and every
channel IDLE; RANGE_SHIFT takes its low three bits while every channel is IDLE. Otherwise the write is refused:
forwarded, and CONFIG_REFUSED raised (R30, R36, R89). -/
def Obligations.CheckedConfigurationWords : Prop :=
  ∀ (v : Word) (s : State), s.resetN = true →
    (1 ≤ v.toNat ∧ v.toNat ≤ 1023 → exec (.timebaseDivWrite v) s = .next
      { sentWord s 0x40000 v with timebaseDiv := v.setWidth 10, divCount := 0 }) ∧
    (v.toNat = 0 ∨ 1024 ≤ v.toNat → exec (.timebaseDivWrite v) s = .next
      { sentWord s 0x40000 v with flags := { s.flags with configRefused := true } }) ∧
    (1 ≤ v.toNat ∧ v.toNat ≤ 15 ∧ s.boardOpen = false ∧ (∀ ch, (s.ch ch).state = .idle) →
      exec (.learnTargetWrite v) s = .next { sentWord s 0x40004 v with learnTarget := v.setWidth 4 }) ∧
    (v.toNat = 0 ∨ 16 ≤ v.toNat ∨ s.boardOpen = true ∨ (∃ ch, (s.ch ch).state ≠ .idle) →
      exec (.learnTargetWrite v) s = .next
        { sentWord s 0x40004 v with flags := { s.flags with configRefused := true } }) ∧
    (∀ r : Fin 8,
      ((∀ ch, (s.ch ch).state = .idle) → ∃ t, exec (.rangeShiftWrite r v) s = .next t ∧
        t.rangeShift[r] = v.setWidth 3 ∧ (∀ q : Fin 8, q ≠ r → t.rangeShift[q] = s.rangeShift[q]) ∧
        t = { sentWord s (0x40040 + r.val * 4) v with rangeShift := t.rangeShift }) ∧
      ((∃ ch, (s.ch ch).state ≠ .idle) → exec (.rangeShiftWrite r v) s = .next
        { sentWord s (0x40040 + r.val * 4) v with flags := { s.flags with configRefused := true } }))

/-- SAMPLE_BASE and SAMPLE_LEN are taken while the channel is IDLE, the base as a word address, and set the cursor to the
base; otherwise they are refused (R21, R22). The other channels' taps and the rest stay. -/
def Obligations.SampleWindowWords : Prop :=
  ∀ (ch : ChanNo) (v : Word) (s : State), s.resetN = true →
    ((s.ch ch).state = .idle →
      exec (.sampleBaseWrite ch v) s = .next ((sentWord s (0x40100 + ch.val * 8) v).setTap ch
        { base := v &&& 0xFFFFFFFC#32, len := (s.tap ch).len, cursor := v &&& 0xFFFFFFFC#32 }) ∧
      exec (.sampleLenWrite ch v) s = .next ((sentWord s (0x40104 + ch.val * 8) v).setTap ch
        { base := (s.tap ch).base, len := v.setWidth 16, cursor := (s.tap ch).base })) ∧
    ((s.ch ch).state ≠ .idle →
      exec (.sampleBaseWrite ch v) s = .next { sentWord s (0x40100 + ch.val * 8) v with
        flags := { s.flags with configRefused := true } } ∧
      exec (.sampleLenWrite ch v) s = .next { sentWord s (0x40104 + ch.val * 8) v with
        flags := { s.flags with configRefused := true } })

/-- The seven words of a source are taken at any time; MON_BASE, as a doubleword address, and MON_LEN also return the
cursor to the base and discard the half pair and the history, and no word changes the latched trip set (R125,
R130). -/
def Obligations.SourceWordsAreTaken : Prop :=
  ∀ (src : SrcNo) (v : Word) (s : State), s.resetN = true →
    exec (.monBaseWrite src v) s = .next ((sentWord s (0x40180 + src.val * 32) v).setSrc src { s.src src with
      base := v &&& 0xFFFFFFF8#32, cursor := v &&& 0xFFFFFFF8#32, half := none, history := [] }) ∧
    exec (.monLenWrite src v) s = .next ((sentWord s (0x40184 + src.val * 32) v).setSrc src { s.src src with
      len := v.setWidth 16, cursor := (s.src src).base, half := none, history := [] }) ∧
    exec (.iLimitWrite src v) s = .next ((sentWord s (0x40188 + src.val * 32) v).setSrc src
      { s.src src with iLimit := v }) ∧
    exec (.vLimitWrite src v) s = .next ((sentWord s (0x4018C + src.val * 32) v).setSrc src
      { s.src src with vLimit := v }) ∧
    exec (.pLimitWrite src v) s = .next ((sentWord s (0x40190 + src.val * 32) v).setSrc src
      { s.src src with pLimit := v }) ∧
    exec (.periodWrite src v) s = .next ((sentWord s (0x40194 + src.val * 32) v).setSrc src
      { s.src src with period := v.setWidth 16 }) ∧
    exec (.guardCtrlWrite src v) s = .next ((sentWord s (0x40198 + src.val * 32) v).setSrc src
      { s.src src with mode := if v.getLsbD 0 = true then .avg4 else .each, holdEnable := v.getLsbD 1 })

/-- RING_BASE, RING_SIZE and RING_PROD_ADDR are taken while the writer is OFF, the first two setting both indices to 0,
and refused in every other writer state (R108). -/
def Obligations.RingConfigurationWords : Prop :=
  ∀ (v : Word) (s : State), s.resetN = true →
    (s.writer.state = .off →
      exec (.ringBaseWrite v) s = .next
        { sentWord s 0x40010 v with writer := { s.writer with ringBase := v, producer := 0, consumer := 0 } } ∧
      exec (.ringSizeWrite v) s = .next { sentWord s 0x40014 v with
        writer := { s.writer with sizeCode := v.setWidth 4, producer := 0, consumer := 0 } } ∧
      exec (.ringProdAddrWrite v) s = .next
        { sentWord s 0x40018 v with writer := { s.writer with prodAddr := v &&& 0xFFFFFFFC#32 } }) ∧
    (s.writer.state ≠ .off →
      exec (.ringBaseWrite v) s = .next
        { sentWord s 0x40010 v with flags := { s.flags with configRefused := true } } ∧
      exec (.ringSizeWrite v) s = .next
        { sentWord s 0x40014 v with flags := { s.flags with configRefused := true } } ∧
      exec (.ringProdAddrWrite v) s = .next
        { sentWord s 0x40018 v with flags := { s.flags with configRefused := true } })

/-- RING_ENABLE in OFF makes the writer READY where the base is a multiple of N times 16 and the size code is 4 to 12,
starting the first write where a verdict waits and the ring has room, and raises CONFIG_REFUSED otherwise; in every
other state it is ignored. RING_DISABLE turns READY to OFF, does nothing in OFF, and is refused in WRITING and FAULT;
indices, queue and channels stay (R109, R110, R112). -/
def Obligations.RingControlEnablesAndDisables : Prop :=
  ∀ (high : BitVec 31) (s : State), s.resetN = true →
    let w := s.writer
    let ok : Prop := 4 ≤ w.sizeCode.toNat ∧ w.sizeCode.toNat ≤ 12 ∧
      w.ringBase.toNat % (2 ^ w.sizeCode.toNat * 16) = 0
    let f := sentWord s 0x4001C (high ++ 1#1)
    let d := sentWord s 0x4001C (high ++ 0#1)
    (w.state ≠ .off → exec (.ringEnable high) s = .next f) ∧
    (w.state = .off → ¬ ok →
      exec (.ringEnable high) s = .next { f with flags := { s.flags with configRefused := true } }) ∧
    (w.state = .off → ok → (s.queue = [] ∨ 2 ^ w.sizeCode.toNat ≤ fillOf w) →
      exec (.ringEnable high) s = .next { f with writer := { w with state := .ready } }) ∧
    (∀ head rest v, w.state = .off → ok → s.queue = head :: rest → (s.ch head).held = some v →
      fillOf w < 2 ^ w.sizeCode.toNat →
      exec (.ringEnable high) s = .next
        { f with writer := { w with state := .writing, flight := some (recordFlight w v) } }) ∧
    (w.state = .off → exec (.ringDisable high) s = .next d) ∧
    (w.state = .ready → exec (.ringDisable high) s = .next { d with writer := { w with state := .off } }) ∧
    (w.state = .writing ∨ w.state = .fault →
      exec (.ringDisable high) s = .next { d with flags := { s.flags with configRefused := true } })

/-! ### Channel commands -/

/-- An ARM that passes every check starts the run with the context that R42 lists and answers DONE; one that fails gives
the code of the first check that applies, in the order of R41, and changes nothing else. That settle left, which R42 does
not list, is kept at the start is the model's choice (log 23). -/
def Obligations.ArmStartsARunOrAnswersTheFirstRefusal : Prop :=
  ∀ (ch : ChanNo) (arg : BitVec 24) (s : State), s.resetN = true →
    let n := arg.toNat
    let f := sentWord s (0x41000 + ch.val * 4) (1#8 ++ arg)
    let answers (r : ResultCode) : Prop :=
      exec (.arm ch arg) s = .next (f.setCh ch { s.ch ch with lastResult := r })
    let trips := (s.src (s.entry n).host.source).trips
    let tripped : Prop := trips.overI = true ∨ trips.overV = true ∨ trips.overP = true
    (s.resetPending = true → answers .busy) ∧
    (s.resetPending = false → (s.ch ch).state ≠ .idle → answers .busy) ∧
    (s.resetPending = false → (s.ch ch).state = .idle → 8191 ≤ n → answers .badStep) ∧
    (s.resetPending = false → (s.ch ch).state = .idle → n < 8191 → (s.entry n).valid = false →
      answers .invalidStep) ∧
    (s.resetPending = false → (s.ch ch).state = .idle → n < 8191 → (s.entry n).valid = true → tripped →
      answers .guarded) ∧
    (s.resetPending = false → (s.ch ch).state = .idle → n < 8191 → (s.entry n).valid = true → ¬ tripped →
      ∃ t, exec (.arm ch arg) s = .next t ∧
        t.ch ch = { started (s.ch ch) (snapshotOf s (arg.setWidth 13)) s.timebase s.band.current with
          lastResult := .done } ∧
        (∀ j, j ≠ ch → t.ch j = s.ch j) ∧
        t.entry n = { s.entry n with runs := (s.entry n).runs + 1 } ∧
        (∀ m, m ≠ n → t.entry m = s.entry m) ∧
        t = { f with chans := t.chans, table := t.table })

/-- ABORT ends a run in flight with ABORTED, suppresses the chain of a held verdict, which stays, and is BAD_STATE in
IDLE; the argument does not matter, and a pending plan reset does not refuse it (R43). -/
def Obligations.AbortEndsOrSuppresses : Prop :=
  ∀ (ch : ChanNo) (arg : BitVec 24) (s : State), s.resetN = true →
    let f := sentWord s (0x41000 + ch.val * 4) (2#8 ++ arg)
    ((s.ch ch).state = .idle →
      exec (.abort ch arg) s = .next (f.setCh ch { s.ch ch with lastResult := .badState })) ∧
    ((s.ch ch).state = .holding → exec (.abort ch arg) s = .next (f.setCh ch
      { s.ch ch with chainSuppressed := true, lastResult := .done })) ∧
    (∀ sn, Channel.inFlight (s.ch ch) = true → (s.ch ch).snapshot = some sn →
      ∃ u t, exec (.abort ch arg) s = .next t ∧ EndedUnjudged ch (s.ch ch) sn .aborted 0 f u ∧
        t = u.setCh ch { u.ch ch with lastResult := .done } ∧ (u.ch ch).chainSuppressed = true)

/-- A channel command with any other code answers BAD_ARG and changes nothing else, pending plan reset or not (R40); a
device command with any other code answers BAD_ARG, and every device command answers BUSY and changes nothing else
while a plan reset is pending (R169). -/
def Obligations.UnknownAndBusyCommands : Prop :=
  ∀ (op : BitVec 8) (arg : BitVec 24) (s : State), s.resetN = true →
    (∀ ch : ChanNo, op.toNat ≠ 1 → op.toNat ≠ 2 → exec (.chCmdUnknown ch op arg) s = .next
      ((sentWord s (0x41000 + ch.val * 4) (op ++ arg)).setCh ch { s.ch ch with lastResult := .badArg })) ∧
    (op.toNat = 0 ∨ 6 ≤ op.toNat → s.resetPending = false →
      exec (.devCmdUnknown op arg) s = .next { sentWord s 0x41020 (op ++ arg) with devResult := .badArg }) ∧
    (s.resetPending = true →
      (op.toNat = 0 ∨ 6 ≤ op.toNat →
        exec (.devCmdUnknown op arg) s = .next { sentWord s 0x41020 (op ++ arg) with devResult := .busy }) ∧
      exec (.planReset arg) s = .next { sentWord s 0x41020 (1#8 ++ arg) with devResult := .busy } ∧
      exec (.boardOpen arg) s = .next { sentWord s 0x41020 (2#8 ++ arg) with devResult := .busy } ∧
      exec (.boardClose arg) s = .next { sentWord s 0x41020 (3#8 ++ arg) with devResult := .busy } ∧
      exec (.learnClear arg) s = .next { sentWord s 0x41020 (4#8 ++ arg) with devResult := .busy } ∧
      exec (.guardClear arg) s = .next { sentWord s 0x41020 (5#8 ++ arg) with devResult := .busy })

/-! ### Device commands -/

/-- PLAN_RESET pends while the writer is WRITING and completes at once in OFF, READY and FAULT (R171); a pending one
completes at the response to the writer's write in flight, OKAY or error, by whichever command brings it (R122,
R173). The latched band and the last command result are kept (R63); that run start, which R63 does not list, is kept is
the model's choice (log 6). The table is in its canonical form. -/
def Obligations.PlanResetPendsOrCompletes : Prop :=
  ∀ (arg : BitVec 24) (s : State), s.resetN = true → Table.wf s.table = true →
    let f := sentWord s 0x41020 (1#8 ++ arg)
    (s.resetPending = false → s.writer.state = .writing →
      exec (.planReset arg) s = .next { f with resetPending := true, devResult := .pending }) ∧
    (s.resetPending = false → s.writer.state ≠ .writing →
      ∃ t, exec (.planReset arg) s = .next t ∧ PlanResetDone f t) ∧
    (∀ fl, s.resetPending = true → s.writer.state = .writing → s.writer.flight = some fl → fl.phase = .response →
      (∃ t, PlanResetDone s t ∧ (∀ resp, exec (.planResetCompletion resp .sinceReset) s = .next t) ∧
        (fl.kind = .record → exec (.recordWriteOkay .sinceReset) s = .next t) ∧
        (fl.kind = .producerWord → exec (.publication .sinceReset) s = .next t) ∧
        (∀ e, exec (.writeErrorResponse e .sinceReset) s = .next t)))

/-- BOARD_OPEN and BOARD_CLOSE answer the first check that applies in the order of R86 and R87, and change the board only
when all pass. -/
def Obligations.BoardCommandsCheckInOrder : Prop :=
  ∀ (arg : BitVec 24) (s : State), s.resetN = true → s.resetPending = false →
    let fo := sentWord s 0x41020 (2#8 ++ arg)
    let fc := sentWord s 0x41020 (3#8 ++ arg)
    let quiet : Prop := (∀ ch, (s.ch ch).state = .idle) ∧ s.queue = []
    (65535 ≤ arg.toNat → exec (.boardOpen arg) s = .next { fo with devResult := .badArg }) ∧
    (arg.toNat < 65535 → s.boardOpen = true → exec (.boardOpen arg) s = .next { fo with devResult := .badState }) ∧
    (arg.toNat < 65535 → s.boardOpen = false → ¬ quiet →
      exec (.boardOpen arg) s = .next { fo with devResult := .busy }) ∧
    (arg.toNat < 65535 → s.boardOpen = false → quiet → exec (.boardOpen arg) s = .next
      { fo with boardOpen := true, board := arg.setWidth 16, devResult := .done }) ∧
    (s.boardOpen = false → exec (.boardClose arg) s = .next { fc with devResult := .badState }) ∧
    (s.boardOpen = true → ¬ quiet → exec (.boardClose arg) s = .next { fc with devResult := .busy }) ∧
    (s.boardOpen = true → quiet → exec (.boardClose arg) s = .next
      { fc with boardOpen := false, board := 65535#16, devResult := .done })

/-- LEARN_CLEAR clears the learn record of the entry it names, or of every entry with 0xFFFFFF, and nothing else of an
entry; any other argument is BAD_STEP (R13, R100). The table is in its canonical form. -/
def Obligations.LearnClearClearsRecords : Prop :=
  ∀ (arg : BitVec 24) (s : State), s.resetN = true → s.resetPending = false → Table.wf s.table = true →
    let f := sentWord s 0x41020 (4#8 ++ arg)
    let cleared : LearnRecord := { count := 0, lastBoard := 65535#16, least := 0, greatest := 0, sum := 0,
                                   derived := false, derivedLow := 0, derivedHigh := 0 }
    (arg.toNat ≤ 8190 → ∃ t, exec (.learnClear arg) s = .next t ∧
      t.entry arg.toNat = { s.entry arg.toNat with learn := cleared } ∧
      (∀ m, m ≠ arg.toNat → t.entry m = s.entry m) ∧ t = { f with table := t.table, devResult := .done }) ∧
    (arg = 0xFFFFFF#24 → ∃ t, exec (.learnClear arg) s = .next t ∧
      (∀ m, t.entry m = { s.entry m with learn := cleared }) ∧ t = { f with table := t.table, devResult := .done }) ∧
    (8191 ≤ arg.toNat → arg ≠ 0xFFFFFF#24 →
      exec (.learnClear arg) s = .next { f with devResult := .badStep })

/-- GUARD_CLEAR empties the trip set and the history and clears the sequence indication of each source that its mask
selects, keeps everything else of it, and answers DONE (R137); motion hold lifts exactly where no holding source is
left (R139, R143). -/
def Obligations.GuardClearEmptiesSelectedSources : Prop :=
  ∀ (arg : BitVec 24) (s : State), s.resetN = true → s.resetPending = false →
    ∃ t, exec (.guardClear arg) s = .next t ∧
      (∀ src : SrcNo, t.src src = if arg.getLsbD src.val = true then
        { s.src src with trips := { overI := false, overV := false, overP := false }, history := [],
                         seqInd := false }
        else s.src src) ∧
      t = { sentWord s 0x41020 (5#8 ++ arg) with srcs := t.srcs, devResult := .done } ∧
      (t.holdEngaged = true ↔ ∃ src : SrcNo, arg.getLsbD src.val = false ∧ (s.src src).holdEnable = true ∧
        TripSet.nonempty (s.src src).trips = true)

/-- CONSUMER takes the new index where it passes no more than the fill, in every writer state, and refuses it otherwise;
one that makes room in a full ring starts the next write within the act (R112, R118). -/
def Obligations.ConsumerMovesWithinTheFill : Prop :=
  ∀ (v : Word) (s : State), s.resetN = true →
    let new : BitVec 16 := v.setWidth 16
    let d := (new.toNat + 65536 - s.writer.consumer.toNat) % 65536
    let f := sentWord s 0x41024 v
    let w' : Writer := { s.writer with consumer := new }
    (fillOf s.writer < d → exec (.consumerWrite v) s = .next
      { f with flags := { s.flags with consumerRefused := true } }) ∧
    (d ≤ fillOf s.writer → (s.writer.state ≠ .ready ∨ s.queue = []) →
      exec (.consumerWrite v) s = .next { f with writer := w' }) ∧
    (∀ head rest r, d ≤ fillOf s.writer → s.writer.state = .ready → s.queue = head :: rest →
      (s.ch head).held = some r →
      (fillOf w' < 2 ^ s.writer.sizeCode.toNat → exec (.consumerWrite v) s = .next
        { f with writer := { w' with state := .writing, flight := some (recordFlight w' r) } }) ∧
      (2 ^ s.writer.sizeCode.toNat ≤ fillOf w' → exec (.consumerWrite v) s = .next { f with writer := w' })) ∧
    (d ≤ fillOf s.writer → fillOf w' = fillOf s.writer - d)

/-- TEMP records the temperature; with thresholds out of order it keeps the band and raises BAND_CONFIG, and with ordered
thresholds the band it leaves is the one the table of R78 places (R77, R78). -/
def Obligations.TempMovesTheBand : Prop :=
  ∀ (v : Word) (s : State), s.resetN = true →
    let t16 : BitVec 16 := v.setWidth 16
    let t := t16.toInt
    let f := sentWord s 0x41028 v
    let b := s.band
    let ordered : Prop := b.t1.toInt < b.t2.toInt ∧ b.t2.toInt < b.t3.toInt
    let h : Int := b.hyst.toNat
    (¬ ordered → exec (.tempWrite v) s = .next { f with
      band := { b with last := t16, noTempYet := false }, flags := { s.flags with bandConfig := true } }) ∧
    (ordered → ∃ new, exec (.tempWrite v) s = .next { f with
        band := { b with last := t16, noTempYet := false, current := new } } ∧
      (b.current = .a → new = if b.t3.toInt + h ≤ t then .d else if b.t2.toInt + h ≤ t then .c
        else if b.t1.toInt + h ≤ t then .b else .a) ∧
      (b.current = .b → new = if b.t3.toInt + h ≤ t then .d else if b.t2.toInt + h ≤ t then .c
        else if b.t1.toInt ≤ t then .b else .a) ∧
      (b.current = .c → new = if b.t3.toInt + h ≤ t then .d else if b.t2.toInt ≤ t then .c
        else if b.t1.toInt ≤ t then .b else .a) ∧
      (b.current = .d → new = if b.t3.toInt ≤ t then .d else if b.t2.toInt ≤ t then .c
        else if b.t1.toInt ≤ t then .b else .a))

/-- INSPECT sets the pointer to the low 13 bits, at any time, a pending plan reset included, and is forwarded; a partial
word changes nothing and raises misuse; no other command changes the pointer, nor any other word of a forwarded beat; it
is 0 after reset and kept by a plan reset (R15). -/
def Obligations.InspectSetsThePointer : Prop :=
  (∀ (v : Word) (s : State), s.resetN = true → exec (.inspectWrite v) s = .next
    { sentWord s 0x4102C v with inspect := BitVec.ofNat 13 (v.toNat % 8192) }) ∧
  (∀ (strb : BitVec 4) (v : Word) (s : State), s.resetN = true → strb ≠ 0#4 → strb ≠ 15#4 →
    exec (.partialStrobeWord 0x4102C#20 strb v) s = .next
      { sent s (.downWord (apertureAddr s.apBase 0x4102C) strb v) with
        flags := { s.flags with apertureMisuse := true } }) ∧
  (∀ (c : Instr) (s t : State), c ≠ .hardwareReset → (∀ v, c ≠ .inspectWrite v) →
    (∀ d m, c ≠ .forwardedWriteBeat d m) → exec c s = .next t → t.inspect = s.inspect) ∧
  (∀ (a : Addr) (strb : BitVec 4) (v : Word) (s : State), a.toNat % 4 = 0 →
    (handWord a strb v s).inspect =
      if strb = 15#4 ∧ a = apertureAddr s.apBase 0x4102C then BitVec.ofNat 13 (v.toNat % 8192) else s.inspect) ∧
  State.reset.inspect = 0 ∧ (∀ s : State, ∃ t, exec .hardwareReset s = .next t ∧ t.inspect = 0) ∧
  (∀ s : State, (completePlanReset s).inspect = s.inspect)

/-! ### Samples -/

/-- A sample or stray of a channel in IDLE moves the cursor and does nothing more; in HOLDING it also makes touch held
no, whatever its touch field (R25, R55, R60). In SEEKING a touch sample counts, and the one that reaches the contact
run confirms contact and starts settling; a sample without touch and a stray set the count to 0 and take no retry
(R44). -/
def Obligations.SamplesOutsideARunAndWhileSeeking : Prop :=
  (∀ (ch : ChanNo) (w : Word) (a : Addr) (strb : BitVec 4) (s : State), s.resetN = true →
    (s.classify (s.tap ch).cursor = .sample ch →
      ((s.ch ch).state = .idle → exec (.inSequenceSample ch w) s = .next (sampleTaken s ch w)) ∧
      ((s.ch ch).state = .holding → exec (.inSequenceSample ch w) s = .next
        ((sampleTaken s ch w).setCh ch { s.ch ch with touchHeld := false }))) ∧
    (s.classify a = .sample ch → a.toNat % 4 = 0 → strb ≠ 0#4 → ¬ (strb = 15#4 ∧ a = (s.tap ch).cursor) →
      ((s.ch ch).state = .idle → exec (.sampleStray ch a strb w) s = .next (strayTaken s ch a strb w)) ∧
      ((s.ch ch).state = .holding → exec (.sampleStray ch a strb w) s = .next
        ((strayTaken s ch a strb w).setCh ch { s.ch ch with touchHeld := false })))) ∧
  (∀ (ch : ChanNo) (w : Word) (a : Addr) (strb : BitVec 4) (sn : Snapshot) (s : State), s.resetN = true →
    (s.ch ch).state = .seeking → (s.ch ch).snapshot = some sn →
    let c := s.ch ch
    (s.classify (s.tap ch).cursor = .sample ch →
      (w.getLsbD 28 = true → c.touchRun + 1 = sn.host.contactRun.toNat →
        exec (.inSequenceSample ch w) s = .next ((sampleTaken s ch w).setCh ch
          (settling { c with touchHeld := true, touchRun := c.touchRun + 1, contactSeen := true }
            sn.host.settle.toNat s.band.current))) ∧
      (w.getLsbD 28 = true → c.touchRun + 1 ≠ sn.host.contactRun.toNat →
        exec (.inSequenceSample ch w) s = .next ((sampleTaken s ch w).setCh ch
          { c with touchHeld := true, touchRun := c.touchRun + 1 })) ∧
      (w.getLsbD 28 = false → exec (.inSequenceSample ch w) s = .next ((sampleTaken s ch w).setCh ch
        { c with touchHeld := false, touchRun := 0 }))) ∧
    (s.classify a = .sample ch → a.toNat % 4 = 0 → strb ≠ 0#4 → ¬ (strb = 15#4 ∧ a = (s.tap ch).cursor) →
      exec (.sampleStray ch a strb w) s = .next ((strayTaken s ch a strb w).setCh ch
        { c with touchHeld := false, touchRun := 0 })))

/-- In SETTLING a touch sample is discarded and counted, the last one leading to AVERAGING; a sample without touch is a
retry with LOST_CONTACT and a stray a retry with SEQUENCE (R45, R46, R50, R55). -/
def Obligations.SamplesWhileSettling : Prop :=
  ∀ (ch : ChanNo) (w : Word) (a : Addr) (strb : BitVec 4) (sn : Snapshot) (s : State), s.resetN = true →
    (s.ch ch).state = .settling → (s.ch ch).snapshot = some sn →
    let c := s.ch ch
    (s.classify (s.tap ch).cursor = .sample ch →
      (w.getLsbD 28 = true → 2 ≤ c.settleLeft →
        exec (.inSequenceSample ch w) s = .next ((sampleTaken s ch w).setCh ch
          { c with touchHeld := true, settleLeft := c.settleLeft - 1 })) ∧
      (w.getLsbD 28 = true → c.settleLeft = 1 →
        exec (.inSequenceSample ch w) s = .next ((sampleTaken s ch w).setCh ch
          (noSet { c with touchHeld := true, settleLeft := 0, state := .averaging, latchedBand := s.band.current }))) ∧
      (w.getLsbD 28 = false → ∃ t, exec (.inSequenceSample ch w) s = .next t ∧
        RetryTaken ch { c with touchHeld := false } sn .lostContact .lostContact 0
          ((sampleTaken s ch w).setCh ch { c with touchHeld := false }) t)) ∧
    (s.classify a = .sample ch → a.toNat % 4 = 0 → strb ≠ 0#4 → ¬ (strb = 15#4 ∧ a = (s.tap ch).cursor) →
      ∃ t, exec (.sampleStray ch a strb w) s = .next t ∧
        RetryTaken ch { c with touchHeld := false } sn .sequence .sequence 0
          ((strayTaken s ch a strb w).setCh ch { c with touchHeld := false }) t)

/-- In AVERAGING a sample without touch is a retry with LOST_CONTACT whatever its range, a stray a retry with SEQUENCE, a
touch sample on another range clears the set and starts settling again, and any other touch sample short of the last
joins the set with its normalised value (R29, R47, R48). -/
def Obligations.SamplesWhileAveraging : Prop :=
  ∀ (ch : ChanNo) (w : Word) (a : Addr) (strb : BitVec 4) (sn : Snapshot) (s : State), s.resetN = true →
    (s.ch ch).state = .averaging → (s.ch ch).snapshot = some sn →
    let c := s.ch ch
    let range : BitVec 3 := w.extractLsb' 24 3
    let x : Int := (if w.getLsbD 27 = true then 8388607 else (w.extractLsb' 0 24).toInt) *
      2 ^ (s.rangeShift[range.toNat]'range.isLt).toNat
    (s.classify (s.tap ch).cursor = .sample ch →
      (w.getLsbD 28 = false → ∃ t, exec (.inSequenceSample ch w) s = .next t ∧
        RetryTaken ch { c with touchHeld := false } sn .lostContact .lostContact 0
          ((sampleTaken s ch w).setCh ch { c with touchHeld := false }) t) ∧
      (w.getLsbD 28 = true → (∃ r, c.firstRange = some r ∧ r ≠ range) →
        exec (.inSequenceSample ch w) s = .next ((sampleTaken s ch w).setCh ch
          (settling (noSet { c with touchHeld := true }) sn.host.settle.toNat s.band.current))) ∧
      (w.getLsbD 28 = true → (c.firstRange = none ∨ c.firstRange = some range) →
        c.averaged + 1 ≠ 2 ^ sn.host.avgCode.toNat →
        exec (.inSequenceSample ch w) s = .next ((sampleTaken s ch w).setCh ch { c with
          touchHeld := true, firstRange := some range, averaged := c.averaged + 1,
          sum := BitVec.ofInt 40 (c.sum.toInt + x),
          least := if c.averaged = 0 then BitVec.ofInt 32 x else BitVec.ofInt 32 (min c.least.toInt x),
          greatest := if c.averaged = 0 then BitVec.ofInt 32 x else BitVec.ofInt 32 (max c.greatest.toInt x) }))) ∧
    (s.classify a = .sample ch → a.toNat % 4 = 0 → strb ≠ 0#4 → ¬ (strb = 15#4 ∧ a = (s.tap ch).cursor) →
      ∃ t, exec (.sampleStray ch a strb w) s = .next t ∧
        RetryTaken ch { c with touchHeld := false } sn .sequence .sequence 0
          ((strayTaken s ch a strb w).setCh ch { c with touchHeld := false }) t)

/-- The sample that completes the averaging set: a spread over the limit is a retry with NOISY; otherwise the run ends
with the average rounded as R49 states, compensated as R67 states, and judged by the qualifier, whose learn record the
entry takes (R47, R49, R53, R54, R65). -/
def Obligations.TheCompletingSampleJudgesTheSet : Prop :=
  ∀ (ch : ChanNo) (w : Word) (sn : Snapshot) (s : State), s.resetN = true →
    (s.ch ch).state = .averaging → (s.ch ch).snapshot = some sn → s.classify (s.tap ch).cursor = .sample ch →
    w.getLsbD 28 = true →
    let range : BitVec 3 := w.extractLsb' 24 3
    let n : Nat := 2 ^ sn.host.avgCode.toNat
    let x : Int := (if w.getLsbD 27 = true then 8388607 else (w.extractLsb' 0 24).toInt) *
      2 ^ (s.rangeShift[range.toNat]'range.isLt).toNat
    let c : Channel := { s.ch ch with
      touchHeld := true, firstRange := some range, averaged := n, sum := BitVec.ofInt 40 ((s.ch ch).sum.toInt + x),
      least := if (s.ch ch).averaged = 0 then BitVec.ofInt 32 x else BitVec.ofInt 32 (min (s.ch ch).least.toInt x),
      greatest := if (s.ch ch).averaged = 0 then BitVec.ofInt 32 x
        else BitVec.ofInt 32 (max (s.ch ch).greatest.toInt x) }
    let spread : Nat := (c.greatest.toInt - c.least.toInt).toNat
    let average : Int := (c.sum.toInt + (n / 2 : Nat)) / (n : Int)
    let u := (sampleTaken s ch w).setCh ch c
    (s.ch ch).averaged + 1 = n → ((s.ch ch).firstRange = none ∨ (s.ch ch).firstRange = some range) →
    ∃ t, exec (.inSequenceSample ch w) s = .next t ∧
      (sn.host.spreadLimit.toNat ≠ 0 ∧ sn.host.spreadLimit.toNat < spread →
        RetryTaken ch c sn .noisy .noisy spread u t) ∧
      (sn.host.spreadLimit.toNat = 0 ∨ spread ≤ sn.host.spreadLimit.toNat →
        ∀ k : Fin 6, sn.host.kind.toNat = k.val →
          let coeff : Int := (s.comp[k.val * 4 + Band.code c.latchedBand]'(by
            cases c.latchedBand <;> simp only [Band.code] <;> omega)).toInt
          let v : Int := average + (average * coeff).tdiv 1000000
          let q := qualify s sn v
          RunEnded ch c sn
            { unjudged s ch c sn q.outcome spread with
              value := BitVec.ofInt 32 v, stale := q.stale, repeated := q.repeated, noBoard := q.noBoard }
            q.learn u t)

/-! ### The qualifier -/

/-- FIXED judges the compensated value against both limits of the snapshot, a value on a limit passing, with STALE alone
as a flag; a committed FIXED snapshot has its limits in order, so that at most one of LOW and HIGH applies and equal
limits pass that value only (R72). LOW_ONLY and HIGH_ONLY judge against one limit and do not read the other, which the
commit check does not compare either; STALE is the only flag, no outcome is LEARNED or LEARN_REJECT, and the chain that
follows a verdict does not depend on the limit mode (R73). -/
def Obligations.FixedAndOneSidedJudgement : Prop :=
  (∀ (s : State) (sn : Snapshot) (v : Int), sn.host.limitMode = .fixed →
    let q := qualify s sn v
    let low := sn.host.lowLimit.toInt
    let high := sn.host.highLimit.toInt
    (v < low → q.outcome = .low) ∧
    (¬ v < low → high < v → q.outcome = .high) ∧
    (low ≤ v → v ≤ high → q.outcome = .pass) ∧
    (HostFields.passesCommit sn.host = true → low ≤ high ∧ ¬ (v < low ∧ high < v) ∧
      (low = high → (q.outcome = .pass ↔ v = low))) ∧
    (q.stale = true ↔ sn.generation ≠ (s.entry sn.step.toNat).generation) ∧
    q.repeated = false ∧ q.noBoard = false ∧ q.learn = (s.entry sn.step.toNat).learn) ∧
  (∀ (s : State) (sn : Snapshot) (v : Int) (other : Word),
    (sn.host.limitMode = .lowOnly →
      (qualify s sn v).outcome = (if v < sn.host.lowLimit.toInt then .low else .pass) ∧
      qualify s { sn with host := { sn.host with highLimit := other } } v = qualify s sn v ∧
      HostFields.passesCommit { sn.host with highLimit := other } = HostFields.passesCommit sn.host) ∧
    (sn.host.limitMode = .highOnly →
      (qualify s sn v).outcome = (if sn.host.highLimit.toInt < v then .high else .pass) ∧
      qualify s { sn with host := { sn.host with lowLimit := other } } v = qualify s sn v ∧
      HostFields.passesCommit { sn.host with lowLimit := other } = HostFields.passesCommit sn.host) ∧
    (sn.host.limitMode = .lowOnly ∨ sn.host.limitMode = .highOnly →
      (qualify s sn v).outcome ≠ .learned ∧ (qualify s sn v).outcome ≠ .learnReject ∧
      ((qualify s sn v).stale = true ↔ sn.generation ≠ (s.entry sn.step.toNat).generation) ∧
      (qualify s sn v).repeated = false ∧ (qualify s sn v).noBoard = false) ∧
    ∀ (c : Channel) (mode : LimitMode), c.snapshot = some sn →
      Channel.chainTarget { c with snapshot := some { sn with host := { sn.host with limitMode := mode } } } =
        Channel.chainTarget c)

/-- A LEARN-mode qualification: a stale run is LEARN_REJECT with STALE and leaves the record; otherwise lazy derivation,
then judgement of a derived entry, NOBOARD, the plausibility window, the repeat, and learning, in this order, with
what each does to the record (R70, R90 to R96). Derivation computes the rounded mean, the margin as the larger of the
relative margin and the floor, and both limits with saturation, and changes nothing else of the record (R14, R97). -/
def Obligations.LearningAndDerivation : Prop :=
  (∀ (s : State) (sn : Snapshot) (v : Int), sn.host.limitMode = .learn →
    let e := s.entry sn.step.toNat
    let k := s.learnTarget.toNat
    let r := if e.learn.derived = false ∧ k ≤ e.learn.count
      then LearnRecord.derive e.learn sn.host.tolerance sn.host.learnFloor else e.learn
    let inside : Prop := sn.host.lowLimit.toInt ≤ v ∧ v ≤ sn.host.highLimit.toInt
    let repeats : Prop := 1 ≤ r.count ∧ r.lastBoard = s.board
    let q := qualify s sn v
    (sn.generation ≠ e.generation → q =
      { outcome := .learnReject, stale := true, repeated := false, noBoard := false, learn := e.learn }) ∧
    (sn.generation = e.generation → q.stale = false ∧
      (r.derived = true → q.learn = r ∧ q.repeated = false ∧ q.noBoard = false ∧ q.outcome =
        if v < r.derivedLow.toInt then .low else if r.derivedHigh.toInt < v then .high else .pass) ∧
      (r.derived = false → s.boardOpen = false →
        q.outcome = .learnReject ∧ q.noBoard = true ∧ q.repeated = false ∧ q.learn = r) ∧
      (r.derived = false → s.boardOpen = true → ¬ inside →
        q.outcome = .learnReject ∧ q.noBoard = false ∧ q.repeated = false ∧ q.learn = r) ∧
      (r.derived = false → s.boardOpen = true → inside → repeats →
        q.outcome = .learned ∧ q.repeated = true ∧ q.noBoard = false ∧ q.learn = r) ∧
      (r.derived = false → s.boardOpen = true → inside → ¬ repeats →
        q.outcome = .learned ∧ q.repeated = false ∧ q.noBoard = false ∧
        (let r' : LearnRecord := { r with
            count := r.count + 1, lastBoard := s.board,
            least := if r.count = 0 then BitVec.ofInt 32 v else BitVec.ofInt 32 (min r.least.toInt v),
            greatest := if r.count = 0 then BitVec.ofInt 32 v else BitVec.ofInt 32 (max r.greatest.toInt v),
            sum := if r.count = 0 then BitVec.ofInt 40 v else BitVec.ofInt 40 (r.sum.toInt + v) }
         q.learn = if r'.count = k then LearnRecord.derive r' sn.host.tolerance sn.host.learnFloor else r')))) ∧
  (∀ (r : LearnRecord) (tolerance learnFloor : Word), 1 ≤ r.count →
    let mean : Int := (r.sum.toInt + (r.count / 2 : Nat)) / (r.count : Int)
    let margin : Int := max ((mean.natAbs * min tolerance.toNat 1000000 / 1000000 : Nat) : Int) learnFloor.toNat
    let d := LearnRecord.derive r tolerance learnFloor
    LearnRecord.mean r = mean ∧
    d.derivedLow.toInt = max (-2147483648) (min (r.least.toInt - margin) 2147483647) ∧
    d.derivedHigh.toInt = max (-2147483648) (min (r.greatest.toInt + margin) 2147483647) ∧
    d = { r with derived := true, derivedLow := d.derivedLow, derivedHigh := d.derivedHigh } ∧
    (r.least.toInt ≤ r.greatest.toInt → d.derivedLow.toInt ≤ d.derivedHigh.toInt))

/-- A learn tolerance is read only at derivation: up to 1,000,000 it enters the margin as it stands, above it as
1,000,000, which makes the relative margin the magnitude of the mean; derivation takes its limits from that margin,
saturated, and changes nothing else by it. The copy keeps the value as written and memory is sent it, no flag is raised,
and the commit check does not examine it. A LEARN-mode qualification that derives nothing (a stale run, a derived entry,
or an entry that neither lazy derivation nor this value completes) is the same for every tolerance; one that derives
shows it only in the derived limits, which IW6 and IW7 report, and in the judgement against limits that it derives
first. A large tolerance qualifies as 1,000,000 does, and no other mode reads it (R184). -/
def Obligations.LargeToleranceIsUsedAsOneMillion : Prop :=
  (∀ (t : Word) (r : LearnRecord) (learnFloor : Word),
    let margin := LearnRecord.margin r t learnFloor
    let d := LearnRecord.derive r t learnFloor
    (t.toNat ≤ 1000000 → toleranceUsed t = t.toNat ∧
      margin = max ((LearnRecord.mean r).natAbs * t.toNat / 1000000) learnFloor.toNat) ∧
    (1000000 < t.toNat → margin = max (LearnRecord.mean r).natAbs learnFloor.toNat ∧
      d = LearnRecord.derive r 1000000#32 learnFloor) ∧
    d.derivedLow.toInt = max (-2147483648) (min (r.least.toInt - (margin : Int)) 2147483647) ∧
    d.derivedHigh.toInt = max (-2147483648) (min (r.greatest.toInt + (margin : Int)) 2147483647) ∧
    d = { r with derived := true, derivedLow := d.derivedLow, derivedHigh := d.derivedHigh }) ∧
  (∀ (h : HostFields) (t : Word), (HostFields.take h 5 t).tolerance = t ∧
    HostFields.passesCommit (HostFields.take h 5 t) = HostFields.passesCommit h) ∧
  (∀ (n : Fin 8191) (t : Word) (s : State), s.resetN = true →
    ∃ u, exec (.stepWordWrite n 5 t) s = .next u ∧ (u.entry n.val).host.tolerance = t ∧ u.flags = s.flags ∧
      u.trace = s.trace ++ [.downWord (apertureAddr s.apBase (n.val * 32 + 20)) 0xF#4 t]) ∧
  (∀ (s : State) (sn : Snapshot) (v : Int) (t : Word),
    let e := s.entry sn.step.toNat
    let k := s.learnTarget.toNat
    let inside : Prop := sn.host.lowLimit.toInt ≤ v ∧ v ≤ sn.host.highLimit.toInt
    let repeats : Prop := 1 ≤ e.learn.count ∧ e.learn.lastBoard = s.board
    let learns : Prop := s.boardOpen = true ∧ inside ∧ ¬ repeats
    let lazily : Prop := sn.host.limitMode = .learn ∧ sn.generation = e.generation ∧ e.learn.derived = false ∧
      k ≤ e.learn.count
    let atK : Prop := sn.host.limitMode = .learn ∧ sn.generation = e.generation ∧ e.learn.derived = false ∧
      e.learn.count < k ∧ learns ∧ e.learn.count + 1 = k
    let q := qualify s sn v
    let q' := qualify s { sn with host := { sn.host with tolerance := t } } v
    (¬ lazily → ¬ atK → q' = q) ∧
    (q'.stale = q.stale ∧ q'.repeated = q.repeated ∧ q'.noBoard = q.noBoard ∧
      q'.learn = { q.learn with derivedLow := q'.learn.derivedLow, derivedHigh := q'.learn.derivedHigh }) ∧
    (¬ lazily → q'.outcome = q.outcome) ∧
    (lazily → q'.outcome =
      if v < q'.learn.derivedLow.toInt then .low else if q'.learn.derivedHigh.toInt < v then .high else .pass) ∧
    (sn.host.limitMode ≠ .learn → q' = q) ∧
    (1000000 < t.toNat → q' = qualify s { sn with host := { sn.host with tolerance := 1000000#32 } } v)) ∧
  ∀ s : State, s.inspect ≠ 8191#13 →
    s.liveWord 38 = (s.entry s.inspect.toNat).learn.derivedLow ∧
    s.liveWord 39 = (s.entry s.inspect.toNat).learn.derivedHigh

/-! ### The stimulus guard -/

/-- A full word at the cursor with the half pair empty fills it; any other present word of the monitor window that does
not complete a pair is a stray: the half pair is discarded, the cursor moves to the pair after the one it lies in, and
MON_SEQUENCE and the source's sequence indication are set (R127, R128). -/
def Obligations.MonitorWordsFillOrStray : Prop :=
  ∀ (src : SrcNo) (v : Word) (a : Addr) (strb : BitVec 4) (s : State), s.resetN = true →
    let r := s.src src
    (s.classify r.cursor = .monitor src → r.half = none → exec (.voltageTaken src v) s = .next
      ((sent s (.downWord r.cursor 0xF#4 v)).setSrc src { r with half := some v })) ∧
    (s.classify a = .monitor src → a.toNat % 4 = 0 → strb ≠ 0#4 →
      ¬ (strb = 15#4 ∧ r.half = none ∧ a = r.cursor) → ¬ (strb = 15#4 ∧ r.half ≠ none ∧ a = r.cursor + 4) →
      exec (.monitorStray src a strb v) s = .next
        { (sent s (.downWord a strb v)).setSrc src { r with
            half := none, cursor := pairAfter r (a &&& 0xFFFFFFF8#32), seqInd := true } with
          flags := { s.flags with monSequence := true } })

/-- The comparison of a pair: each condition whose limit is not 0, over the magnitudes, a value on its limit not
tripping, and the power in nW against the limit in µW times 1000; the magnitude of -2,147,483,648 is 2,147,483,648;
and a comparison that finds none leaves the trip set and ends no run (R132). -/
def Obligations.ComparisonFindsTripKinds : Prop :=
  (∀ (r : Source) (v i : Int), (Source.kindsFound r v i).overI = true ↔
      r.iLimit.toNat ≠ 0 ∧ r.iLimit.toNat < i.natAbs) ∧
  (∀ (r : Source) (v i : Int), (Source.kindsFound r v i).overV = true ↔
      r.vLimit.toNat ≠ 0 ∧ r.vLimit.toNat < v.natAbs) ∧
  (∀ (r : Source) (v i : Int), (Source.kindsFound r v i).overP = true ↔
      r.pLimit.toNat ≠ 0 ∧ r.pLimit.toNat * 1000 < v.natAbs * i.natAbs) ∧
  (0x80000000#32).toInt.natAbs = 2147483648 ∧
  (∀ (src : SrcNo) (s : State), (tripCheck src .empty s).chans = s.chans ∧
    ((tripCheck src .empty s).src src).trips = (s.src src).trips)

/-- The values that a pair is compared with: its own in EACH; in AVG4 the truncated means of four pairs, and none before
the history, which holds the last four pairs, holds four (R131). A pair arrival finds the kinds of its compared values
whose conditions hold, and none where no comparison is made (R131, R132). -/
def Obligations.ComparedValuesFollowTheMode : Prop :=
  ∀ (r : Source) (p : Pair),
    (r.mode = .each → Source.compared r p = some (p.voltage.toInt, p.current.toInt)) ∧
    (∀ a b c d, r.mode = .avg4 → r.history = [a, b, c, d] → Source.compared r p = some
      ((a.voltage.toInt + b.voltage.toInt + c.voltage.toInt + d.voltage.toInt).tdiv 4,
       (a.current.toInt + b.current.toInt + c.current.toInt + d.current.toInt).tdiv 4)) ∧
    (r.mode = .avg4 → r.history.length ≠ 4 → Source.compared r p = none) ∧
    (∀ v i, Source.compared r p = some (v, i) → Source.found r p = Source.kindsFound r v i) ∧
    (Source.compared r p = none → Source.found r p = { overI := false, overV := false, overP := false }) ∧
    (∀ h : List Pair, h.length < 4 → addHistory h p = h ++ [p]) ∧
    (∀ (o : Pair) (h : List Pair), h.length = 3 → addHistory (o :: h) p = h ++ [p])

/-- PAIR_ARRIVAL completes the half pair: history, comparison and latched kinds; a source that trips ends every run bound
to it with GUARD, in ascending channel order, and meters none; otherwise the pair's own current is metered into every
run bound to it with a budget, and each run over its budget ends with CHARGE (R127, R131, R133 to R136). The runs that
end leave their entries, join the hold queue in ascending channel order, and the first one's record write begins where
R112 says so (R12, R53, R104). -/
def Obligations.PairArrivalTripsThenMeters : Prop :=
  ∀ (src : SrcNo) (i v : Word) (s : State), s.resetN = true →
    (s.src src).half = some v → s.classify ((s.src src).cursor + 4) = .monitor src →
    let r : Source := { s.src src with
      half := none, cursor := pairAfter (s.src src) (s.src src).cursor,
      history := addHistory (s.src src).history { voltage := v, current := i } }
    let found := Source.found r { voltage := v, current := i }
    let had : Prop := TripSet.nonempty r.trips = true
    let trips : Prop := TripSet.nonempty found = true ∧ ¬ had
    let charged (c : Channel) : Channel :=
      { c with charge := BitVec.ofNat 48 (min (c.charge.toNat + i.toInt.natAbs * r.period.toNat) (2 ^ 48 - 1)) }
    let u := (sent s (.downWord ((s.src src).cursor + 4) 0xF#4 i)).setSrc src { r with
      trips := { overI := r.trips.overI || found.overI, overV := r.trips.overV || found.overV,
                 overP := r.trips.overP || found.overP } }
    ∃ t, exec (.pairArrival src i) s = .next t ∧
      (∀ ch, (∀ sn, (s.ch ch).snapshot = some sn → Channel.inFlight (s.ch ch) = true → sn.host.source ≠ src) →
        t.ch ch = s.ch ch) ∧
      (∀ ch sn, (s.ch ch).snapshot = some sn → Channel.inFlight (s.ch ch) = true → sn.host.source = src →
        (trips → t.ch ch = { s.ch ch with
          held := some (unjudged s ch (s.ch ch) sn .guard 0), deadline := none, state := .holding,
          chainSuppressed := true }) ∧
        (¬ trips → (r.period.toNat = 0 ∨ sn.host.budget.toNat = 0) → t.ch ch = s.ch ch) ∧
        (¬ trips → r.period.toNat ≠ 0 → sn.host.budget.toNat ≠ 0 →
          ((charged (s.ch ch)).charge.toNat ≤ sn.host.budget.toNat * 10000 → t.ch ch = charged (s.ch ch)) ∧
          (sn.host.budget.toNat * 10000 < (charged (s.ch ch)).charge.toNat → t.ch ch =
            { charged (s.ch ch) with
              held := some (unjudged s ch (s.ch ch) sn .charge 0), deadline := none, state := .holding,
              chainSuppressed := true }))) ∧
      RunsEnded (allChannels.filter fun ch => decide ((s.ch ch).state ≠ .holding ∧ (t.ch ch).state = .holding)) u t

/-- CHARGE_EXCESS: the current of one pair carries one run over its budget, and the run ends with CHARGE; without an
excess, without a budget or a PERIOD, or from a source whose monitor window is disabled, nothing happens (R125, R135;
one run at a time is the model's choice, log 12). -/
def Obligations.ChargeExcessEndsTheRun : Prop :=
  ∀ (ch : ChanNo) (i : Word) (sn : Snapshot) (s : State), s.resetN = true →
    Channel.inFlight (s.ch ch) = true → (s.ch ch).snapshot = some sn →
    let period := (s.src sn.host.source).period
    let window := (s.src sn.host.source).len
    let charge : BitVec 48 :=
      BitVec.ofNat 48 (min ((s.ch ch).charge.toNat + i.toInt.natAbs * period.toNat) (2 ^ 48 - 1))
    let c : Channel := { s.ch ch with charge := charge }
    let exceeds : Prop := window.toNat ≠ 0 ∧ period.toNat ≠ 0 ∧ sn.host.budget.toNat ≠ 0 ∧
      sn.host.budget.toNat * 10000 < charge.toNat
    (exceeds → ∃ t, exec (.chargeExcess ch i) s = .next t ∧ EndedUnjudged ch c sn .charge 0 (s.setCh ch c) t) ∧
    (¬ exceeds → exec (.chargeExcess ch i) s = .next s)

/-! ### The verdict writer -/

/-- RECORD_WRITE_BEGIN: a READY writer with a verdict at the head and room in the ring begins the record write, two full
beats to the slot of the producer index with that index as the sequence; otherwise nothing happens (R103, R112, R113).
RECORD_WRITE_OKAY: the producer word, producer plus one, is issued in the half of the beat that its address selects,
and the producer index stays (R114). WRITE_ERROR_RESPONSE puts the writer in FAULT with which write failed and the
response; the producer index, the queue and every channel stay (R116). A response that the writer does not await is not
taken: in every state but WRITING, while the write's address or data are still to go, an OKAY to a write of the other
kind, and a completion without a pending plan reset (R161; the model's reading, log 2). Nor is one that answers a write
issued before the reset (R123; log 11). The half of the producer-word beat that is not enabled is a free value
(log 8). -/
def Obligations.WriterBeginsContinuesAndFaults : Prop :=
  (∀ s : State, s.resetN = true →
    let w := s.writer
    (∀ head rest v, s.queue = head :: rest → (s.ch head).held = some v → w.state = .ready →
      fillOf w < 2 ^ w.sizeCode.toNat → exec .recordWriteBegin s = .next
        { s with writer := { w with state := .writing, flight := some (recordFlight w v) } }) ∧
    (w.state ≠ .ready ∨ s.queue = [] ∨ 2 ^ w.sizeCode.toNat ≤ fillOf w → exec .recordWriteBegin s = .next s) ∧
    (∀ f, s.resetPending = false → w.state = .writing → w.flight = some f → f.kind = .record → f.phase = .response →
      ∃ (idle word : Word), word.toNat = (w.producer.toNat + 1) % 65536 ∧
        exec (.recordWriteOkay .sinceReset) s = .next { s with
          freeCount := s.freeCount + 1,
          writer := { w with flight := some {
            kind := .producerWord, addr := w.prodAddr, phase := .request true,
            beats := [if w.prodAddr.getLsbD 2 = true then (word ++ idle, 0xF0#8) else (idle ++ word, 0x0F#8)] } } }) ∧
    (exec (.recordWriteOkay .beforeReset) s = .next s)) ∧
  (∀ (e : ErrResp) (s : State), s.resetN = true →
    (∀ f, s.resetPending = false → s.writer.state = .writing → s.writer.flight = some f → f.phase = .response →
      exec (.writeErrorResponse e .sinceReset) s = .next { s with writer := { s.writer with
        state := .fault, failed := if f.kind = .record then .record else .producerWord, failResponse := some e,
        flight := none } }) ∧
    (let awaits (k : WriteKind) : Prop := s.writer.state = .writing ∧
       ∃ f, s.writer.flight = some f ∧ f.kind = k ∧ f.phase = .response
     (¬ awaits .record → exec (.recordWriteOkay .sinceReset) s = .next s) ∧
      (¬ awaits .producerWord → exec (.publication .sinceReset) s = .next s) ∧
      (¬ awaits .record → ¬ awaits .producerWord → exec (.writeErrorResponse e .sinceReset) s = .next s ∧
        ∀ resp, exec (.planResetCompletion resp .sinceReset) s = .next s) ∧
      (s.resetPending = false → ∀ resp, exec (.planResetCompletion resp .sinceReset) s = .next s)) ∧
    (exec (.writeErrorResponse e .beforeReset) s = .next s ∧ exec (.publication .beforeReset) s = .next s ∧
      ∀ resp, exec (.planResetCompletion resp .beforeReset) s = .next s))

/-- PUBLICATION: the producer advances by one, the head leaves the queue and its channel is released; without a chain it
returns to IDLE, with DRAINED where that leaves the part quiet, and so does one that held a CHAIN_REFUSED verdict, which
has no snapshot; a chain whose target passes starts its run, with contact carried where touch is held; one whose target
does not pass rejoins at the tail with CHAIN_REFUSED; and the next write begins where a verdict waits and the ring has
room (R56 to R59, R112, R115, R177, R183). That settle left, which R42 does not list, is kept at a chain start without
contact carried, and at a refused chain the fields that R59 does not list, is the model's choice (log 23). -/
def Obligations.PublicationReleasesTheHead : Prop :=
  ∀ (s : State) (f : Flight) (head : ChanNo) (rest : List ChanNo) (v : Verdict), s.resetN = true →
    s.resetPending = false → s.writer.state = .writing → s.writer.flight = some f → f.kind = .producerWord →
    f.phase = .response → s.queue = head :: rest → (s.ch head).held = some v →
    let c := s.ch head
    let chainsTo (n : BitVec 16) : Prop := c.chainSuppressed = false ∧ n ≠ 8191#16 ∧
      ∃ sn, c.snapshot = some sn ∧ n = sn.host.nextStep ∧
        (sn.host.policy = .onPass ∧ v.outcome = .pass ∨
          sn.host.policy = .always ∧ v.outcome ≠ .aborted ∧ v.outcome ≠ .guard ∧ v.outcome ≠ .charge)
    let w : Writer := { s.writer with producer := s.writer.producer + 1, state := .ready, flight := none }
    ∃ t, exec (.publication .sinceReset) s = .next t ∧
      (∀ j, j ≠ head → t.ch j = s.ch j) ∧
      (2 ^ w.sizeCode.toNat ≤ fillOf w ∨ t.queue = [] → t.writer = w) ∧
      (∀ h q r, t.queue = h :: q → (t.ch h).held = some r → fillOf w < 2 ^ w.sizeCode.toNat →
        t.writer = { w with state := .writing, flight := some (recordFlight w r) }) ∧
      t = { s with chans := t.chans, table := t.table, queue := t.queue, writer := t.writer,
                   flags := { s.flags with drained := t.flags.drained } } ∧
      ((∀ n, ¬ chainsTo n) → t.queue = rest ∧ t.table = s.table ∧
        t.ch head = { c with held := none, state := .idle, step := 8191#13, snapshot := none,
                             chainSuppressed := false } ∧
        (t.flags.drained = true ↔ s.flags.drained = true ∨
          rest = [] ∧ ∀ j, j ≠ head → (s.ch j).state = .idle)) ∧
      (∀ n, chainsTo n → n.toNat ≤ 8191 →
        let target := s.entry n.toNat
        let passes : Prop := target.valid = true ∧ TripSet.nonempty (s.src target.host.source).trips = false
        t.flags.drained = s.flags.drained ∧
        (passes → t.queue = rest ∧
          t.entry n.toNat = { target with runs := target.runs + 1 } ∧
          (∀ m, m ≠ n.toNat → t.entry m = s.entry m) ∧
          (let b := started c (snapshotOf s (n.setWidth 13)) s.timebase s.band.current
           (c.touchHeld = false → t.ch head = b) ∧
           (c.touchHeld = true → t.ch head = settling { b with
              touchRun := target.host.contactRun.toNat, contactSeen := true, carried := true, touchHeld := true }
              target.host.settle.toNat s.band.current))) ∧
        (¬ passes → t.queue = rest ++ [head] ∧ t.table = s.table ∧
          t.ch head = { c with
            step := n.setWidth 13, snapshot := none, latchedBand := s.band.current, chainSuppressed := true,
            state := .holding,
            held := some { step := n.setWidth 13, channel := head, outcome := .chainRefused, retries := 0,
                           band := s.band.current, stale := false, repeated := false, noBoard := false,
                           carried := false, board := if s.boardOpen = true then s.board else 65535#16,
                           value := 0, spread := 0, elapsed := 0 } }))

/-! ### The transaction path -/

/-- The class of a word address of a write beat, by the precedence of R150: the parts of the aperture by offset, then the
lowest-numbered sample window, then the lowest-numbered monitor window, then none. -/
def Obligations.WordsAreClassifiedByPrecedence : Prop :=
  ∀ (a : Addr) (s : State),
    let base := s.apBase.toNat * 0x100000
    let off := a.toNat - base
    let inside : Prop := base ≤ a.toNat ∧ a.toNat < base + 0x100000
    let inWindow (ch : ChanNo) : Prop := (a - (s.tap ch).base).toNat < 4 * (s.tap ch).len.toNat
    let inMonitor (src : SrcNo) : Prop := (a - (s.src src).base).toNat < 8 * (s.src src).len.toNat
    (inside → s.classify a =
      if off < 0x40000 then .step off else if off < 0x41000 then .config off
      else if off < 0x42000 then .command off else if off < 0x42100 then .live else .passThrough) ∧
    (∀ ch, ¬ inside → inWindow ch → (∀ j, j < ch → ¬ inWindow j) → s.classify a = .sample ch) ∧
    (∀ src, ¬ inside → (∀ ch, ¬ inWindow ch) → inMonitor src → (∀ j, j < src → ¬ inMonitor j) →
      s.classify a = .monitor src) ∧
    (¬ inside → (∀ ch, ¬ inWindow ch) → (∀ src, ¬ inMonitor src) → s.classify a = .other)

/-- A read burst arrives while the read list has room: LIVE where a beat lies in the live area, with the doublewords of
its beats, clearing DEVICE_FLAGS where a beat's lanes cover it; HELD where the four conditions of a held read hold,
with the pattern; otherwise FORWARDED, waiting for memory. With 32 entries no read arrives, nor while a forwarded burst
that waits for memory holds the upstream read address channel (R140, R141, R148, R151, R155 to R157; that it holds the
one channel is the model's reading, log 15). -/
def Obligations.ReadsArriveByTheirClass : Prop :=
  ∀ (o : Offer) (s : State), s.resetN = true →
    let beat (i : Nat) := Burst.beatAddr o.burst i
    let offset (a : Addr) : Int := (a.toNat : Int) - s.apBase.toNat * 0x100000
    let live : Prop := ∃ i, i ≤ o.burst.len.toNat ∧ 0x42000 ≤ offset (beat i) ∧ offset (beat i) < 0x42100
    let covers : Prop := ∃ i, i ≤ o.burst.len.toNat ∧ dwordOf (beat i) = apertureAddr s.apBase 0x42000 ∧
      (Burst.lanes o.burst i).extractLsb' 0 4 ≠ 0#4
    let held : Prop := s.holdEngaged = true ∧ (o.burst.addr - s.move.base).toNat < s.move.len.toNat ∧
      (o.id &&& s.move.mask) = (s.move.id &&& s.move.mask) ∧
      ¬ (0 ≤ offset o.burst.addr ∧ offset o.burst.addr < 0x42100)
    let values := (List.range (o.burst.len.toNat + 1)).map fun i => s.liveBeat (beat i)
    let noFlags : DeviceFlags :=
      { apertureMisuse := false, configRefused := false, commitRejected := false, bandConfig := false,
        monSequence := false, consumerRefused := false, drained := false }
    let room : Prop := s.reads.length < 32 ∧ ∀ e, e ∈ s.reads → e.kind ≠ .forwarded false
    (room → live →
      let u := { s with reads := s.reads ++ [{ id := o.id, burst := o.burst, kind := .live values }] }
      (¬ covers → exec (.liveRead o) s = .next u) ∧
      (covers → exec (.liveRead o) s = .next { u with flags := noFlags } ∧
        exec (.deviceFlagsRead o) s = .next { u with flags := noFlags })) ∧
    (room → ¬ live → held → exec (.heldRead o) s = .next
      { s with reads := s.reads ++ [{ id := o.id, burst := o.burst, kind := .held s.move.pattern }] }) ∧
    (room → ¬ live → ¬ held → exec (.forwardedReadArrival o) s = .next
      { s with reads := s.reads ++ [{ id := o.id, burst := o.burst, kind := .forwarded false }] }) ∧
    (¬ room → exec (.liveRead o) s = .next s ∧ exec (.deviceFlagsRead o) s = .next s ∧
      exec (.heldRead o) s = .next s ∧ exec (.forwardedReadArrival o) s = .next s)

/-- FORWARDED_READ gives memory the waiting forwarded burst unchanged under its ID with bit 16 clear. READ_DATA_RETURN
passes memory's beat upstream unchanged where the oldest entry of its ID is a forwarded one that memory has and it is
memory's turn, and the entry leaves with its last beat. PART_READ_BEATS_RETURN returns every beat of the oldest ready
part entry in the part's turn, all OKAY, the last one marked. A beat that no such entry awaits, or that comes out of
turn, is not taken: memory's while a part entry is ready and memory was served last, the part's while a beat of memory
that counts waits and the part was served last (R141, R147, R153, R155, R157, R158). What memory has waiting is an
operand, and so is whether its beat answers a read issued before the reset, which is discarded (the model's choices,
logs 10 and 11; that an event out of turn changes nothing is log 2, how forwarded reads wait log 15). -/
def Obligations.ReadsReturnInOrder : Prop :=
  ∀ s : State, s.resetN = true →
    let byPart (e : ReadEntry) : Prop := ∀ taken, e.kind ≠ .forwarded taken
    let counts (id : BusId) : Prop := ∃ pre e post, s.reads = pre ++ e :: post ∧ e.id = id ∧
      e.kind = .forwarded true ∧ ∀ d, d ∈ pre → d.id ≠ id
    let partReady : Prop := ∃ pre e post, s.reads = pre ++ e :: post ∧ byPart e ∧ ∀ d, d ∈ pre → d.id ≠ e.id
    (∀ pre post e, s.reads = pre ++ e :: post → e.kind = .forwarded false →
      (∀ d, d ∈ pre → d.kind ≠ .forwarded false) →
      exec .forwardedRead s = .next { s with
        reads := pre ++ { e with kind := .forwarded true } :: post,
        trace := s.trace ++ [.downReadAddr (0#1 ++ e.id) e.burst] }) ∧
    ((∀ e, e ∈ s.reads → e.kind ≠ .forwarded false) → exec .forwardedRead s = .next s) ∧
    (∀ pre post e data resp last, s.reads = pre ++ e :: post → e.kind = .forwarded true →
      (∀ d, d ∈ pre → d.id ≠ e.id) → (¬ partReady ∨ s.servedRead = .part) →
      exec (.readDataReturn e.id data resp last .sinceReset) s = .next { s with
        reads := if last = true then pre ++ post else s.reads, servedRead := .memory,
        trace := s.trace ++ [.upReadBeat e.id data resp last] }) ∧
    (∀ id data resp last, (¬ counts id ∨ partReady ∧ s.servedRead = .memory) →
      exec (.readDataReturn id data resp last .sinceReset) s = .next s) ∧
    (∀ pre post e memory, s.reads = pre ++ e :: post → byPart e → (∀ d, d ∈ pre → d.id ≠ e.id) →
      (∀ p q d, pre = p ++ d :: q → byPart d → ∃ b, b ∈ p ∧ b.id = d.id) →
      (s.servedRead = .memory ∨ ∀ id, memory = some id → ¬ counts id) →
      let vs := (match e.kind with
        | .live vs => vs
        | .held p => List.replicate (e.burst.len.toNat + 1) (p ++ p)
        | .forwarded _ => [])
      exec (.partReadBeatsReturn memory) s = .next { s with
        reads := pre ++ post, servedRead := .part,
        trace := s.trace ++ vs.zipIdx.map fun x => .upReadBeat e.id x.1 .okay (x.2 + 1 == vs.length) }) ∧
    (∀ memory, (¬ partReady ∨ s.servedRead = .part ∧ ∃ id, memory = some id ∧ counts id) →
      exec (.partReadBeatsReturn memory) s = .next s) ∧
    (∀ id data resp last, exec (.readDataReturn id data resp last .beforeReset) s = .next s)

/-- LIVE_WRITE accepts the address of a burst that reaches the live area while the write list has room, and its beats
raise APERTURE_MISUSE once, at the first present word in the live area, and change nothing else (R148, R154). Strobes
outside the beat's lanes do not count (the model's reading, log 14). -/
def Obligations.LiveWritesOnlyRaiseMisuse : Prop :=
  ∀ s : State, s.resetN = true →
    (∀ o : Offer, s.writes.length < 32 → Burst.touchesLive s.apBase o.burst = true →
      exec (.liveWrite (.address o)) s = .next { s with
        writes := s.writes ++ [{ id := o.id, burst := o.burst, kind := .live false, arrived := 0 }] }) ∧
    (∀ pre post e flagged data strb, s.writes = pre ++ e :: post →
      (∀ d, d ∈ pre → d.burst.len.toNat + 1 ≤ d.arrived) → e.arrived ≤ e.burst.len.toNat →
      e.kind = .live flagged →
      let present : Prop := strb &&& Burst.lanes e.burst e.arrived ≠ 0#8 ∧
        inLiveArea s.apBase (Burst.beatAddr e.burst e.arrived) = true
      (present → exec (.liveWrite (.beat data strb)) s = .next { s with
        writes := pre ++ { e with arrived := e.arrived + 1, kind := .live true } :: post,
        flags := if flagged = true then s.flags else { s.flags with apertureMisuse := true } }) ∧
      (¬ present → exec (.liveWrite (.beat data strb)) s = .next { s with
        writes := pre ++ { e with arrived := e.arrived + 1 } :: post }))

/-- The two responses on the upstream write response channel: memory's, unchanged, for the oldest entry of its ID once
that forwarded burst's data have gone, in memory's turn; and a single OKAY for the oldest ready LIVE entry, in the
part's turn. Each entry leaves the list with its response. A response that no such entry awaits, or that comes out of
turn, is not taken: memory's while a LIVE entry is ready and memory was served last, the part's while a response of
memory that counts waits and the part was served last (R152, R154, R157, R158, R161). What memory has waiting, and
whether its response is from before the reset, are operands (the model's choices, logs 10 and 11; that an event out of
turn changes nothing is log 2). -/
def Obligations.WriteResponsesReturnInOrder : Prop :=
  ∀ s : State, s.resetN = true →
    let isLive (e : WriteEntry) : Prop := ∃ flagged, e.kind = .live flagged
    let complete (e : WriteEntry) : Prop := e.burst.len.toNat + 1 ≤ e.arrived
    let counts (id : BusId) : Prop := ∃ pre e post, s.writes = pre ++ e :: post ∧ e.id = id ∧
      e.kind = .forwarded ∧ complete e ∧ ∀ d, d ∈ pre → d.id ≠ id
    let partReady : Prop := ∃ pre e post, s.writes = pre ++ e :: post ∧ isLive e ∧ complete e ∧
      ∀ d, d ∈ pre → d.id ≠ e.id
    (∀ pre post e resp, s.writes = pre ++ e :: post → e.kind = .forwarded → complete e →
      (∀ d, d ∈ pre → d.id ≠ e.id) → (¬ partReady ∨ s.servedResp = .part) →
      exec (.forwardedWriteResponse e.id resp .sinceReset) s = .next { s with
        writes := pre ++ post, servedResp := .memory, trace := s.trace ++ [.upWriteResp e.id resp] }) ∧
    (∀ id resp, (¬ counts id ∨ partReady ∧ s.servedResp = .memory) →
      exec (.forwardedWriteResponse id resp .sinceReset) s = .next s) ∧
    (∀ pre post e memory, s.writes = pre ++ e :: post → isLive e → complete e → (∀ d, d ∈ pre → d.id ≠ e.id) →
      (∀ p q d, pre = p ++ d :: q → isLive d → complete d → ∃ b, b ∈ p ∧ b.id = d.id) →
      (s.servedResp = .memory ∨ ∀ id, memory = some id → ¬ counts id) →
      exec (.liveWriteResponse memory) s = .next { s with
        writes := pre ++ post, servedResp := .part, trace := s.trace ++ [.upWriteResp e.id .okay] }) ∧
    (∀ memory, (¬ partReady ∨ s.servedResp = .part ∧ ∃ id, memory = some id ∧ counts id) →
      exec (.liveWriteResponse memory) s = .next s) ∧
    (∀ id resp, exec (.forwardedWriteResponse id resp .beforeReset) s = .next s)

/-- DOWNSTREAM_WRITE_GRANT alternates between the forwarded stream and the writer where both wait, grants the one that
waits otherwise, and does nothing where neither waits. The forwarded stream waits with an address that the part does not
complete itself, while the write list has room; a granted one is accepted and passed on unchanged under its ID with bit
16 clear, and a request of the writer that it passes over is fresh no more. The writer waits with a request, but for a
fresh one made after the grant. A granted writer's address goes under the reserved ID, and its data wait for the
forwarded bursts granted before it that have data to send, following at once where there is none (R113, R147, R148,
R152, R154, R157, R159, R160; that they follow at once is the model's choice, log 22; what waits at a grant, and whether
the grant was made before the writer's request, are operands, log 9). -/
def Obligations.TheWriteArbiterAlternates : Prop :=
  ∀ (s : State) (o : Option Offer) (before : Bool), s.resetN = true →
    let offered (x : Offer) : Prop :=
      o = some x ∧ Burst.touchesLive s.apBase x.burst = false ∧ s.writes.length < 32
    let requests (f : Flight) : Prop :=
      s.writer.flight = some f ∧ ∃ fresh, f.phase = .request fresh ∧ ¬ (before = true ∧ fresh = true)
    let passedOver := s.writer.flight.map fun f =>
      match f.phase with
      | .request _ => { f with phase := .request false }
      | .data n => { f with phase := .data n }
      | .response => { f with phase := .response }
    let ahead : Nat := (s.writes.filter fun e =>
      decide (e.kind = .forwarded ∧ e.arrived ≤ e.burst.len.toNat)).length
    (∀ x, offered x → ((∀ f, ¬ requests f) ∨ s.lastGrant = .writer) →
      exec (.downstreamWriteGrant o before) s = .next { s with
        lastGrant := .forwarded, writer := { s.writer with flight := passedOver },
        writes := s.writes ++ [{ id := x.id, burst := x.burst, kind := .forwarded, arrived := 0 }],
        trace := s.trace ++ [.downWriteAddr (0#1 ++ x.id) x.burst] }) ∧
    (∀ f, requests f → ((∀ x, ¬ offered x) ∨ s.lastGrant = .forwarded) →
      ∃ burst : Burst, burst.addr = f.addr ∧ burst.attrs.lock = false ∧
        (f.kind = .record → burst.len = 1#8 ∧ burst.size = 3 ∧ burst.type = .incr) ∧
        (f.kind = .producerWord → burst.len = 0#8) ∧
        (ahead = 0 → exec (.downstreamWriteGrant o before) s = .next { s with
          lastGrant := .writer, freeCount := s.freeCount + 1,
          writer := { s.writer with flight := some { f with phase := .response } },
          trace := s.trace ++ .downWriteAddr 0x10000#17 burst ::
            f.beats.zipIdx.map fun x => .downWriteBeat x.1.1 x.1.2 (x.2 + 1 == f.beats.length) }) ∧
        (1 ≤ ahead → exec (.downstreamWriteGrant o before) s = .next { s with
          lastGrant := .writer, freeCount := s.freeCount + 1,
          writer := { s.writer with flight := some { f with phase := .data ahead } },
          trace := s.trace ++ [.downWriteAddr 0x10000#17 burst] })) ∧
    ((∀ x, ¬ offered x) → (∀ f, ¬ requests f) → exec (.downstreamWriteGrant o before) s = .next s)

/-- FORWARDED_WRITE_BEAT: the beat is passed on unchanged, the last one marked, and its two words are handed to the
classes that claim them, the lower-addressed first and whole, each with the strobes of the lanes its beat carries (R5,
R148, R150, R152, R163). Writer's data that wait behind forwarded bursts have one burst fewer ahead after a last beat,
and follow at once after the last of them (R160; the model's choice, log 22). That strobes outside the beat's lanes do not
count is the model's reading (log 14). -/
def Obligations.ForwardedBeatsHandTheirWords : Prop :=
  ∀ (pre post : List WriteEntry) (e : WriteEntry) (data : Beat) (strb : BitVec 8) (s : State), s.resetN = true →
    s.writes = pre ++ e :: post → (∀ d, d ∈ pre → d.burst.len.toNat + 1 ≤ d.arrived) →
    e.arrived ≤ e.burst.len.toNat → e.kind = .forwarded →
    let a := Burst.beatAddr e.burst e.arrived &&& 0xFFFFFFF8#32
    let m := strb &&& Burst.lanes e.burst e.arrived
    let u := { s with
      writes := pre ++ { e with arrived := e.arrived + 1 } :: post,
      trace := s.trace ++ [.downWriteBeat data strb (e.arrived == e.burst.len.toNat)] }
    let hands (u : State) : Prop := exec (.forwardedWriteBeat data strb) s = .next
      (handWord (a + 4) (m.extractLsb' 4 4) (data.extractLsb' 32 32)
        (handWord a (m.extractLsb' 0 4) (data.extractLsb' 0 32) u))
    (e.arrived < e.burst.len.toNat → hands u) ∧
    (e.arrived = e.burst.len.toNat → (∀ f, s.writer.flight = some f → ∀ n, f.phase ≠ .data n) → hands u) ∧
    (∀ f n, e.arrived = e.burst.len.toNat → s.writer.flight = some f → f.phase = .data (n + 1) →
      (1 ≤ n → hands { u with writer := { s.writer with flight := some { f with phase := .data n } } }) ∧
      (n = 0 → hands { u with
        writer := { s.writer with flight := some { f with phase := .response } },
        trace := u.trace ++ f.beats.zipIdx.map fun x =>
          .downWriteBeat x.1.1 x.1.2 (x.2 + 1 == f.beats.length) }))

/-- The addresses and byte lanes of a burst's beats: fixed, incrementing and wrapping (R163). That an incrementing burst
that runs past the top of the map continues modulo 2^32 is the model's choice (log 27). -/
def Obligations.BeatAddressesFollowTheBurst : Prop :=
  ∀ (b : Burst) (i : Nat), i ≤ b.len.toNat →
    let size := 2 ^ b.size.val
    let block := (b.len.toNat + 1) * size
    (b.type = .fixed → Burst.beatAddr b i = b.addr) ∧
    (b.type = .incr → Burst.beatAddr b 0 = b.addr ∧
      (1 ≤ i → Burst.beatAddr b i = BitVec.ofNat 32 ((b.addr.toNat - b.addr.toNat % size) + i * size))) ∧
    (b.type = .wrap → b.addr.toNat % size = 0 →
      let start := b.addr.toNat - b.addr.toNat % block
      Burst.beatAddr b 0 = b.addr ∧
      (i + 1 ≤ b.len.toNat → start + block ≤ 2 ^ 32 →
        (Burst.beatAddr b (i + 1)).toNat = if (Burst.beatAddr b i).toNat + size = start + block then start
          else (Burst.beatAddr b i).toNat + size)) ∧
    (∀ k : Fin 8, (Burst.lanes b i).getLsbD k.val = true ↔
      (Burst.beatAddr b i).toNat % 8 ≤ k.val ∧
        k.val < ((Burst.beatAddr b i).toNat % 8) - ((Burst.beatAddr b i).toNat % 8) % size + size)

/-! ### The live words -/

/-- The fields of the live words at their bits, in states whose counts fit their fields (R62, R82, R106, R120, R138, R178,
10.7); the inspect window reports the entry that the pointer selects and all zeros at 8191, and unassigned offsets read
0 (R16, R17, R155). A beat of a live read returns the two live words of its doubleword, the lower-addressed in the low
half, and 0 outside the live area (R155). The codes of results, channel states, writer states, failed writes, recorded
responses, retry causes and commit statuses are those of 10.7. -/
def Obligations.LiveWordsHoldTheirFields : Prop :=
  (∀ s : State, fillOf s.writer ≤ 4096 → s.queue.length ≤ 8 → (∀ src, (s.src src).history.length ≤ 4) →
    ((s.liveWord 0).toNat = s.flags.apertureMisuse.toNat + 2 * s.flags.configRefused.toNat +
      4 * s.flags.commitRejected.toNat + 8 * s.flags.bandConfig.toNat + 16 * s.flags.monSequence.toNat +
      32 * s.flags.consumerRefused.toNat + 64 * s.flags.drained.toNat) ∧
    ((s.liveWord 1).toNat = s.board.toNat + 2 ^ 16 * s.boardOpen.toNat + 2 ^ 17 * s.resetPending.toNat +
      2 ^ 18 * s.holdEngaged.toNat + 2 ^ 19 * Band.code s.band.current + 2 ^ 21 * s.band.noTempYet.toNat +
      2 ^ 22 * (State.causes s).ring.toNat + 2 ^ 23 * (State.causes s).guard.toNat +
      2 ^ 24 * (State.causes s).writerFault.toNat + 2 ^ 25 * (State.causes s).flags.toNat +
      2 ^ 26 * s.noticeAsserted.toNat) ∧
    (s.liveWord 2).toNat = ResultCode.code s.devResult ∧ s.liveWord 3 = s.timebase ∧
    (s.liveWord 4).toNat = s.writer.producer.toNat ∧ (s.liveWord 5).toNat = s.writer.consumer.toNat ∧
    ((s.liveWord 6).toNat = WriterState.code s.writer.state + 4 * FailedWrite.code s.writer.failed +
      16 * failResponseCode s.writer.failResponse + 256 * s.writer.sizeCode.toNat + 65536 * fillOf s.writer) ∧
    ((s.liveWord 7).toNat = s.band.last.toNat + 2 ^ 16 * Band.code s.band.current +
      2 ^ 18 * s.band.noTempYet.toNat +
      2 ^ 19 * (if s.band.t1.toInt < s.band.t2.toInt ∧ s.band.t2.toInt < s.band.t3.toInt then 1 else 0)) ∧
    (∀ ch : ChanNo, (s.liveWord (8 + ch.val)).toNat = ChState.code (s.ch ch).state + 8 * (s.ch ch).step.toNat +
      2 ^ 16 * ResultCode.code (s.ch ch).lastResult + 2 ^ 20 * (s.ch ch).retries.toNat +
      2 ^ 24 * RetryCause.code (s.ch ch).lastRetry + 2 ^ 26 * (s.ch ch).contactSeen.toNat +
      2 ^ 27 * (s.ch ch).chainSuppressed.toNat + 2 ^ 28 * (s.ch ch).carried.toNat +
      2 ^ 29 * (s.ch ch).touchHeld.toNat) ∧
    (∀ src : SrcNo, let r := s.src src
      (s.liveWord (16 + src.val)).toNat = r.trips.overI.toNat + 2 * r.trips.overV.toNat + 4 * r.trips.overP.toNat +
        8 * r.seqInd.toNat + 16 * r.history.length + 128 * r.half.isSome.toNat +
        256 * (if r.mode = .avg4 then 1 else 0) + 512 * r.holdEnable.toNat +
        1024 * (r.holdEnable && TripSet.nonempty r.trips).toNat) ∧
    (s.liveWord 20).toNat % 16 = s.queue.length ∧ (s.liveWord 20).toNat < 2 ^ 28 ∧
    (∀ p : Fin 8, (s.liveWord 20).toNat / 2 ^ (3 * p.val + 4) % 8 =
      match s.queue[p.val]? with
      | some ch => ch.val
      | none => 0) ∧
    (let e := s.entry s.inspect.toNat
     s.inspect ≠ 8191#13 → e.learn.count ≤ 15 → e.runs ≤ 8 →
      (s.liveWord 32).toNat = e.valid.toNat + 2 * CommitStatus.code e.status + 8 * e.learn.derived.toNat +
        16 * e.learn.count + 256 * e.generation.toNat + 65536 * e.runs ∧
      (s.liveWord 33).toNat = e.learn.lastBoard.toNat + 65536 * (e.learn.sum.toNat / 2 ^ 32) ∧
      (s.liveWord 34).toNat = e.learn.sum.toNat % 2 ^ 32 ∧
      s.liveWord 35 = e.learn.least ∧ s.liveWord 36 = e.learn.greatest ∧
      s.liveWord 37 = BitVec.ofInt 32 (if e.learn.count = 0 then 0
        else (e.learn.sum.toInt + (e.learn.count / 2 : Nat)) / (e.learn.count : Int)) ∧
      s.liveWord 38 = e.learn.derivedLow ∧ s.liveWord 39 = e.learn.derivedHigh) ∧
    (s.inspect = 8191#13 → ∀ k : Fin 8, s.liveWord (32 + k.val) = 0#32) ∧
    (∀ k : Nat, 21 ≤ k ∧ k ≤ 31 ∨ 40 ≤ k → s.liveWord k = 0#32)) ∧
  (∀ (s : State) (a : Addr),
    let offset : Int := (a.toNat : Int) - s.apBase.toNat * 0x100000
    (∀ k : Fin 32, 0x42000 + 8 * k.val ≤ offset → offset < 0x42008 + 8 * k.val →
      s.liveBeat a = s.liveWord (2 * k.val + 1) ++ s.liveWord (2 * k.val)) ∧
    (offset < 0x42000 ∨ 0x42100 ≤ offset → s.liveBeat a = 0#64)) ∧
  [ResultCode.noResult, .done, .pending, .busy, .badArg, .badState, .badStep, .invalidStep, .guarded].map
    ResultCode.code = List.range 9 ∧
  [ChState.idle, .seeking, .settling, .averaging, .holding].map ChState.code = List.range 5 ∧
  [WriterState.off, .ready, .writing, .fault].map WriterState.code = List.range 4 ∧
  [FailedWrite.noWrite, .record, .producerWord].map FailedWrite.code = List.range 3 ∧
  [none, some ErrResp.slverr, some .decerr, some .exokay].map failResponseCode = List.range 4 ∧
  [RetryCause.noRetry, .lostContact, .noisy, .sequence].map RetryCause.code = List.range 4 ∧
  [CommitStatus.never, .committed, .rejected].map CommitStatus.code = List.range 3

/-- NOTICE_N is driven low exactly while a cause holds whose enable is set, and the four causes are the conditions of
R180; motion hold is engaged exactly while a source with hold enable has a latched trip (R139). -/
def Obligations.NoticeAndHoldFollowTheirConditions : Prop :=
  ∀ s : State,
    let ring : Prop := s.writer.ringLevel.toNat ≠ 0 ∧ s.writer.ringLevel.toNat ≤ fillOf s.writer
    let tripped (src : SrcNo) : Prop := (s.src src).trips.overI = true ∨ (s.src src).trips.overV = true ∨
      (s.src src).trips.overP = true
    let f := s.flags
    let flagged : Prop := f.apertureMisuse = true ∨ f.configRefused = true ∨ f.commitRejected = true ∨
      f.bandConfig = true ∨ f.monSequence = true ∨ f.consumerRefused = true ∨ f.drained = true
    (s.noticeAsserted = true ↔ s.notice.ring = true ∧ ring ∨ s.notice.guard = true ∧ (∃ src, tripped src) ∨
      s.notice.writerFault = true ∧ s.writer.state = .fault ∨ s.notice.flags = true ∧ flagged) ∧
    (s.holdEngaged = true ↔ ∃ src, (s.src src).holdEnable = true ∧ tripped src)

/-! ### What every step keeps -/

/-- Every invariant below holds at reset; that at most one forwarded read waits, a clause of the lists' invariant, is the
model's reading of R148 (log 15). -/
def Obligations.InvariantsHoldAtReset : Prop :=
  TableInv State.reset ∧ PlanInv State.reset ∧ HoldInv State.reset ∧ RunsInv State.reset ∧ RingInv State.reset ∧
    TripInv State.reset ∧ RangeInv State.reset ∧ LearnInv State.reset ∧ BoardInv State.reset ∧
    ListsInv State.reset ∧ DividerInv State.reset ∧ CursorInv State.reset ∧ HistoryInv State.reset ∧
    ResetLineInv State.reset

/-- Every step keeps the step table canonical and confined to entries 0 to 8190, the hold queue equal to the channels in
HOLDING, and every entry's runs in flight equal to the channels in flight on it (R1, R12, R39, R104). -/
def Obligations.StepKeepsTheQueueAndTheRunCounts : Prop :=
  ∀ s t : State, TableInv s → HoldInv s → RunsInv s → step s = .next t → TableInv t ∧ HoldInv t ∧ RunsInv t

/-- Every step keeps every valid entry and every snapshot within the commit checks, and every run within its snapshot's
counts (R9, R44, R45, R47, R50, R183). -/
def Obligations.StepKeepsRunsWithinThePlan : Prop :=
  ∀ s t : State, PlanInv s → RangeInv s → step s = .next t → PlanInv t ∧ RangeInv t

/-- Every step keeps the fill within the ring, an enabled writer's configuration legal, a write in flight exactly in
WRITING, a READY writer idle only for want of a verdict or of room, and a plan reset pending only in WRITING (R107,
R109, R111, R112, R171). -/
def Obligations.StepKeepsTheRing : Prop :=
  ∀ s t : State, HoldInv s → RingInv s → step s = .next t → RingInv t

/-- Every step keeps a tripped source free of runs in flight (R134), the learn target at 1 or more, every learn count at
15 or less and a record that has learned nothing cleared (R13, R89, R96), the board number in agreement with the open
board, the outstanding lists at 32 entries with at most one forwarded read that waits for memory, the divider in range,
every cursor in its window, every history at four pairs, and the reset line's state (R23, R35, R36, R85, R125, R126,
R131, R148, R157, R165, R181; that at most one forwarded read waits is the model's reading of R148, log 15). -/
def Obligations.StepKeepsTheBounds : Prop :=
  ∀ s t : State, Table.wf s.table = true →
    TripInv s ∧ LearnInv s ∧ BoardInv s ∧ ListsInv s ∧ DividerInv s ∧ CursorInv s ∧ HistoryInv s ∧ ResetLineInv s →
    step s = .next t →
    TripInv t ∧ LearnInv t ∧ BoardInv t ∧ ListsInv t ∧ DividerInv t ∧ CursorInv t ∧ HistoryInv t ∧ ResetLineInv t
end

