-- ==== Sys2Proof/Laws/State.lean ====
section
/-! SUPPORT. One lemma per field and update of the state: what an update leaves as it was. The fields an update changes
are read back in Laws/Access.lean. -/

namespace Sys2Proof.Machine

open Sys2Proof

@[simp] theorem emit_pending (p : PortTransfer) (s : State) : (emit p s).pending = s.pending := rfl
@[simp] theorem emit_freeCount (p : PortTransfer) (s : State) : (emit p s).freeCount = s.freeCount := rfl
@[simp] theorem emit_resetN (p : PortTransfer) (s : State) : (emit p s).resetN = s.resetN := rfl
@[simp] theorem emit_apBase (p : PortTransfer) (s : State) : (emit p s).apBase = s.apBase := rfl
@[simp] theorem emit_timebase (p : PortTransfer) (s : State) : (emit p s).timebase = s.timebase := rfl
@[simp] theorem emit_timebaseDiv (p : PortTransfer) (s : State) : (emit p s).timebaseDiv = s.timebaseDiv := rfl
@[simp] theorem emit_divCount (p : PortTransfer) (s : State) : (emit p s).divCount = s.divCount := rfl
@[simp] theorem emit_table (p : PortTransfer) (s : State) : (emit p s).table = s.table := rfl
@[simp] theorem emit_inspect (p : PortTransfer) (s : State) : (emit p s).inspect = s.inspect := rfl
@[simp] theorem emit_taps (p : PortTransfer) (s : State) : (emit p s).taps = s.taps := rfl
@[simp] theorem emit_chans (p : PortTransfer) (s : State) : (emit p s).chans = s.chans := rfl
@[simp] theorem emit_rangeShift (p : PortTransfer) (s : State) : (emit p s).rangeShift = s.rangeShift := rfl
@[simp] theorem emit_comp (p : PortTransfer) (s : State) : (emit p s).comp = s.comp := rfl
@[simp] theorem emit_learnTarget (p : PortTransfer) (s : State) : (emit p s).learnTarget = s.learnTarget := rfl
@[simp] theorem emit_band (p : PortTransfer) (s : State) : (emit p s).band = s.band := rfl
@[simp] theorem emit_writer (p : PortTransfer) (s : State) : (emit p s).writer = s.writer := rfl
@[simp] theorem emit_queue (p : PortTransfer) (s : State) : (emit p s).queue = s.queue := rfl
@[simp] theorem emit_srcs (p : PortTransfer) (s : State) : (emit p s).srcs = s.srcs := rfl
@[simp] theorem emit_move (p : PortTransfer) (s : State) : (emit p s).move = s.move := rfl
@[simp] theorem emit_boardOpen (p : PortTransfer) (s : State) : (emit p s).boardOpen = s.boardOpen := rfl
@[simp] theorem emit_board (p : PortTransfer) (s : State) : (emit p s).board = s.board := rfl
@[simp] theorem emit_devResult (p : PortTransfer) (s : State) : (emit p s).devResult = s.devResult := rfl
@[simp] theorem emit_resetPending (p : PortTransfer) (s : State) : (emit p s).resetPending = s.resetPending := rfl
@[simp] theorem emit_flags (p : PortTransfer) (s : State) : (emit p s).flags = s.flags := rfl
@[simp] theorem emit_notice (p : PortTransfer) (s : State) : (emit p s).notice = s.notice := rfl
@[simp] theorem emit_reads (p : PortTransfer) (s : State) : (emit p s).reads = s.reads := rfl
@[simp] theorem emit_writes (p : PortTransfer) (s : State) : (emit p s).writes = s.writes := rfl
@[simp] theorem emit_lastGrant (p : PortTransfer) (s : State) : (emit p s).lastGrant = s.lastGrant := rfl
@[simp] theorem emit_servedRead (p : PortTransfer) (s : State) : (emit p s).servedRead = s.servedRead := rfl
@[simp] theorem emit_servedResp (p : PortTransfer) (s : State) : (emit p s).servedResp = s.servedResp := rfl

@[simp] theorem withFlags_pending (f : DeviceFlags → DeviceFlags) (s : State) : (withFlags f s).pending = s.pending := rfl
@[simp] theorem withFlags_trace (f : DeviceFlags → DeviceFlags) (s : State) : (withFlags f s).trace = s.trace := rfl
@[simp] theorem withFlags_freeCount (f : DeviceFlags → DeviceFlags) (s : State) : (withFlags f s).freeCount = s.freeCount := rfl
@[simp] theorem withFlags_resetN (f : DeviceFlags → DeviceFlags) (s : State) : (withFlags f s).resetN = s.resetN := rfl
@[simp] theorem withFlags_apBase (f : DeviceFlags → DeviceFlags) (s : State) : (withFlags f s).apBase = s.apBase := rfl
@[simp] theorem withFlags_timebase (f : DeviceFlags → DeviceFlags) (s : State) : (withFlags f s).timebase = s.timebase := rfl
@[simp] theorem withFlags_timebaseDiv (f : DeviceFlags → DeviceFlags) (s : State) : (withFlags f s).timebaseDiv = s.timebaseDiv := rfl
@[simp] theorem withFlags_divCount (f : DeviceFlags → DeviceFlags) (s : State) : (withFlags f s).divCount = s.divCount := rfl
@[simp] theorem withFlags_table (f : DeviceFlags → DeviceFlags) (s : State) : (withFlags f s).table = s.table := rfl
@[simp] theorem withFlags_inspect (f : DeviceFlags → DeviceFlags) (s : State) : (withFlags f s).inspect = s.inspect := rfl
@[simp] theorem withFlags_taps (f : DeviceFlags → DeviceFlags) (s : State) : (withFlags f s).taps = s.taps := rfl
@[simp] theorem withFlags_chans (f : DeviceFlags → DeviceFlags) (s : State) : (withFlags f s).chans = s.chans := rfl
@[simp] theorem withFlags_rangeShift (f : DeviceFlags → DeviceFlags) (s : State) : (withFlags f s).rangeShift = s.rangeShift := rfl
@[simp] theorem withFlags_comp (f : DeviceFlags → DeviceFlags) (s : State) : (withFlags f s).comp = s.comp := rfl
@[simp] theorem withFlags_learnTarget (f : DeviceFlags → DeviceFlags) (s : State) : (withFlags f s).learnTarget = s.learnTarget := rfl
@[simp] theorem withFlags_band (f : DeviceFlags → DeviceFlags) (s : State) : (withFlags f s).band = s.band := rfl
@[simp] theorem withFlags_writer (f : DeviceFlags → DeviceFlags) (s : State) : (withFlags f s).writer = s.writer := rfl
@[simp] theorem withFlags_queue (f : DeviceFlags → DeviceFlags) (s : State) : (withFlags f s).queue = s.queue := rfl
@[simp] theorem withFlags_srcs (f : DeviceFlags → DeviceFlags) (s : State) : (withFlags f s).srcs = s.srcs := rfl
@[simp] theorem withFlags_move (f : DeviceFlags → DeviceFlags) (s : State) : (withFlags f s).move = s.move := rfl
@[simp] theorem withFlags_boardOpen (f : DeviceFlags → DeviceFlags) (s : State) : (withFlags f s).boardOpen = s.boardOpen := rfl
@[simp] theorem withFlags_board (f : DeviceFlags → DeviceFlags) (s : State) : (withFlags f s).board = s.board := rfl
@[simp] theorem withFlags_devResult (f : DeviceFlags → DeviceFlags) (s : State) : (withFlags f s).devResult = s.devResult := rfl
@[simp] theorem withFlags_resetPending (f : DeviceFlags → DeviceFlags) (s : State) : (withFlags f s).resetPending = s.resetPending := rfl
@[simp] theorem withFlags_notice (f : DeviceFlags → DeviceFlags) (s : State) : (withFlags f s).notice = s.notice := rfl
@[simp] theorem withFlags_reads (f : DeviceFlags → DeviceFlags) (s : State) : (withFlags f s).reads = s.reads := rfl
@[simp] theorem withFlags_writes (f : DeviceFlags → DeviceFlags) (s : State) : (withFlags f s).writes = s.writes := rfl
@[simp] theorem withFlags_lastGrant (f : DeviceFlags → DeviceFlags) (s : State) : (withFlags f s).lastGrant = s.lastGrant := rfl
@[simp] theorem withFlags_servedRead (f : DeviceFlags → DeviceFlags) (s : State) : (withFlags f s).servedRead = s.servedRead := rfl
@[simp] theorem withFlags_servedResp (f : DeviceFlags → DeviceFlags) (s : State) : (withFlags f s).servedResp = s.servedResp := rfl

@[simp] theorem setEntry_pending (s : State) (n : Nat) (e : Entry) : (s.setEntry n e).pending = s.pending := rfl
@[simp] theorem setEntry_trace (s : State) (n : Nat) (e : Entry) : (s.setEntry n e).trace = s.trace := rfl
@[simp] theorem setEntry_freeCount (s : State) (n : Nat) (e : Entry) : (s.setEntry n e).freeCount = s.freeCount := rfl
@[simp] theorem setEntry_resetN (s : State) (n : Nat) (e : Entry) : (s.setEntry n e).resetN = s.resetN := rfl
@[simp] theorem setEntry_apBase (s : State) (n : Nat) (e : Entry) : (s.setEntry n e).apBase = s.apBase := rfl
@[simp] theorem setEntry_timebase (s : State) (n : Nat) (e : Entry) : (s.setEntry n e).timebase = s.timebase := rfl
@[simp] theorem setEntry_timebaseDiv (s : State) (n : Nat) (e : Entry) : (s.setEntry n e).timebaseDiv = s.timebaseDiv := rfl
@[simp] theorem setEntry_divCount (s : State) (n : Nat) (e : Entry) : (s.setEntry n e).divCount = s.divCount := rfl
@[simp] theorem setEntry_inspect (s : State) (n : Nat) (e : Entry) : (s.setEntry n e).inspect = s.inspect := rfl
@[simp] theorem setEntry_taps (s : State) (n : Nat) (e : Entry) : (s.setEntry n e).taps = s.taps := rfl
@[simp] theorem setEntry_chans (s : State) (n : Nat) (e : Entry) : (s.setEntry n e).chans = s.chans := rfl
@[simp] theorem setEntry_rangeShift (s : State) (n : Nat) (e : Entry) : (s.setEntry n e).rangeShift = s.rangeShift := rfl
@[simp] theorem setEntry_comp (s : State) (n : Nat) (e : Entry) : (s.setEntry n e).comp = s.comp := rfl
@[simp] theorem setEntry_learnTarget (s : State) (n : Nat) (e : Entry) : (s.setEntry n e).learnTarget = s.learnTarget := rfl
@[simp] theorem setEntry_band (s : State) (n : Nat) (e : Entry) : (s.setEntry n e).band = s.band := rfl
@[simp] theorem setEntry_writer (s : State) (n : Nat) (e : Entry) : (s.setEntry n e).writer = s.writer := rfl
@[simp] theorem setEntry_queue (s : State) (n : Nat) (e : Entry) : (s.setEntry n e).queue = s.queue := rfl
@[simp] theorem setEntry_srcs (s : State) (n : Nat) (e : Entry) : (s.setEntry n e).srcs = s.srcs := rfl
@[simp] theorem setEntry_move (s : State) (n : Nat) (e : Entry) : (s.setEntry n e).move = s.move := rfl
@[simp] theorem setEntry_boardOpen (s : State) (n : Nat) (e : Entry) : (s.setEntry n e).boardOpen = s.boardOpen := rfl
@[simp] theorem setEntry_board (s : State) (n : Nat) (e : Entry) : (s.setEntry n e).board = s.board := rfl
@[simp] theorem setEntry_devResult (s : State) (n : Nat) (e : Entry) : (s.setEntry n e).devResult = s.devResult := rfl
@[simp] theorem setEntry_resetPending (s : State) (n : Nat) (e : Entry) : (s.setEntry n e).resetPending = s.resetPending := rfl
@[simp] theorem setEntry_flags (s : State) (n : Nat) (e : Entry) : (s.setEntry n e).flags = s.flags := rfl
@[simp] theorem setEntry_notice (s : State) (n : Nat) (e : Entry) : (s.setEntry n e).notice = s.notice := rfl
@[simp] theorem setEntry_reads (s : State) (n : Nat) (e : Entry) : (s.setEntry n e).reads = s.reads := rfl
@[simp] theorem setEntry_writes (s : State) (n : Nat) (e : Entry) : (s.setEntry n e).writes = s.writes := rfl
@[simp] theorem setEntry_lastGrant (s : State) (n : Nat) (e : Entry) : (s.setEntry n e).lastGrant = s.lastGrant := rfl
@[simp] theorem setEntry_servedRead (s : State) (n : Nat) (e : Entry) : (s.setEntry n e).servedRead = s.servedRead := rfl
@[simp] theorem setEntry_servedResp (s : State) (n : Nat) (e : Entry) : (s.setEntry n e).servedResp = s.servedResp := rfl

@[simp] theorem setCh_pending (s : State) (i : ChanNo) (c : Channel) : (s.setCh i c).pending = s.pending := rfl
@[simp] theorem setCh_trace (s : State) (i : ChanNo) (c : Channel) : (s.setCh i c).trace = s.trace := rfl
@[simp] theorem setCh_freeCount (s : State) (i : ChanNo) (c : Channel) : (s.setCh i c).freeCount = s.freeCount := rfl
@[simp] theorem setCh_resetN (s : State) (i : ChanNo) (c : Channel) : (s.setCh i c).resetN = s.resetN := rfl
@[simp] theorem setCh_apBase (s : State) (i : ChanNo) (c : Channel) : (s.setCh i c).apBase = s.apBase := rfl
@[simp] theorem setCh_timebase (s : State) (i : ChanNo) (c : Channel) : (s.setCh i c).timebase = s.timebase := rfl
@[simp] theorem setCh_timebaseDiv (s : State) (i : ChanNo) (c : Channel) : (s.setCh i c).timebaseDiv = s.timebaseDiv := rfl
@[simp] theorem setCh_divCount (s : State) (i : ChanNo) (c : Channel) : (s.setCh i c).divCount = s.divCount := rfl
@[simp] theorem setCh_table (s : State) (i : ChanNo) (c : Channel) : (s.setCh i c).table = s.table := rfl
@[simp] theorem setCh_inspect (s : State) (i : ChanNo) (c : Channel) : (s.setCh i c).inspect = s.inspect := rfl
@[simp] theorem setCh_taps (s : State) (i : ChanNo) (c : Channel) : (s.setCh i c).taps = s.taps := rfl
@[simp] theorem setCh_rangeShift (s : State) (i : ChanNo) (c : Channel) : (s.setCh i c).rangeShift = s.rangeShift := rfl
@[simp] theorem setCh_comp (s : State) (i : ChanNo) (c : Channel) : (s.setCh i c).comp = s.comp := rfl
@[simp] theorem setCh_learnTarget (s : State) (i : ChanNo) (c : Channel) : (s.setCh i c).learnTarget = s.learnTarget := rfl
@[simp] theorem setCh_band (s : State) (i : ChanNo) (c : Channel) : (s.setCh i c).band = s.band := rfl
@[simp] theorem setCh_writer (s : State) (i : ChanNo) (c : Channel) : (s.setCh i c).writer = s.writer := rfl
@[simp] theorem setCh_queue (s : State) (i : ChanNo) (c : Channel) : (s.setCh i c).queue = s.queue := rfl
@[simp] theorem setCh_srcs (s : State) (i : ChanNo) (c : Channel) : (s.setCh i c).srcs = s.srcs := rfl
@[simp] theorem setCh_move (s : State) (i : ChanNo) (c : Channel) : (s.setCh i c).move = s.move := rfl
@[simp] theorem setCh_boardOpen (s : State) (i : ChanNo) (c : Channel) : (s.setCh i c).boardOpen = s.boardOpen := rfl
@[simp] theorem setCh_board (s : State) (i : ChanNo) (c : Channel) : (s.setCh i c).board = s.board := rfl
@[simp] theorem setCh_devResult (s : State) (i : ChanNo) (c : Channel) : (s.setCh i c).devResult = s.devResult := rfl
@[simp] theorem setCh_resetPending (s : State) (i : ChanNo) (c : Channel) : (s.setCh i c).resetPending = s.resetPending := rfl
@[simp] theorem setCh_flags (s : State) (i : ChanNo) (c : Channel) : (s.setCh i c).flags = s.flags := rfl
@[simp] theorem setCh_notice (s : State) (i : ChanNo) (c : Channel) : (s.setCh i c).notice = s.notice := rfl
@[simp] theorem setCh_reads (s : State) (i : ChanNo) (c : Channel) : (s.setCh i c).reads = s.reads := rfl
@[simp] theorem setCh_writes (s : State) (i : ChanNo) (c : Channel) : (s.setCh i c).writes = s.writes := rfl
@[simp] theorem setCh_lastGrant (s : State) (i : ChanNo) (c : Channel) : (s.setCh i c).lastGrant = s.lastGrant := rfl
@[simp] theorem setCh_servedRead (s : State) (i : ChanNo) (c : Channel) : (s.setCh i c).servedRead = s.servedRead := rfl
@[simp] theorem setCh_servedResp (s : State) (i : ChanNo) (c : Channel) : (s.setCh i c).servedResp = s.servedResp := rfl

@[simp] theorem setTap_pending (s : State) (i : ChanNo) (t : Tap) : (s.setTap i t).pending = s.pending := rfl
@[simp] theorem setTap_trace (s : State) (i : ChanNo) (t : Tap) : (s.setTap i t).trace = s.trace := rfl
@[simp] theorem setTap_freeCount (s : State) (i : ChanNo) (t : Tap) : (s.setTap i t).freeCount = s.freeCount := rfl
@[simp] theorem setTap_resetN (s : State) (i : ChanNo) (t : Tap) : (s.setTap i t).resetN = s.resetN := rfl
@[simp] theorem setTap_apBase (s : State) (i : ChanNo) (t : Tap) : (s.setTap i t).apBase = s.apBase := rfl
@[simp] theorem setTap_timebase (s : State) (i : ChanNo) (t : Tap) : (s.setTap i t).timebase = s.timebase := rfl
@[simp] theorem setTap_timebaseDiv (s : State) (i : ChanNo) (t : Tap) : (s.setTap i t).timebaseDiv = s.timebaseDiv := rfl
@[simp] theorem setTap_divCount (s : State) (i : ChanNo) (t : Tap) : (s.setTap i t).divCount = s.divCount := rfl
@[simp] theorem setTap_table (s : State) (i : ChanNo) (t : Tap) : (s.setTap i t).table = s.table := rfl
@[simp] theorem setTap_inspect (s : State) (i : ChanNo) (t : Tap) : (s.setTap i t).inspect = s.inspect := rfl
@[simp] theorem setTap_chans (s : State) (i : ChanNo) (t : Tap) : (s.setTap i t).chans = s.chans := rfl
@[simp] theorem setTap_rangeShift (s : State) (i : ChanNo) (t : Tap) : (s.setTap i t).rangeShift = s.rangeShift := rfl
@[simp] theorem setTap_comp (s : State) (i : ChanNo) (t : Tap) : (s.setTap i t).comp = s.comp := rfl
@[simp] theorem setTap_learnTarget (s : State) (i : ChanNo) (t : Tap) : (s.setTap i t).learnTarget = s.learnTarget := rfl
@[simp] theorem setTap_band (s : State) (i : ChanNo) (t : Tap) : (s.setTap i t).band = s.band := rfl
@[simp] theorem setTap_writer (s : State) (i : ChanNo) (t : Tap) : (s.setTap i t).writer = s.writer := rfl
@[simp] theorem setTap_queue (s : State) (i : ChanNo) (t : Tap) : (s.setTap i t).queue = s.queue := rfl
@[simp] theorem setTap_srcs (s : State) (i : ChanNo) (t : Tap) : (s.setTap i t).srcs = s.srcs := rfl
@[simp] theorem setTap_move (s : State) (i : ChanNo) (t : Tap) : (s.setTap i t).move = s.move := rfl
@[simp] theorem setTap_boardOpen (s : State) (i : ChanNo) (t : Tap) : (s.setTap i t).boardOpen = s.boardOpen := rfl
@[simp] theorem setTap_board (s : State) (i : ChanNo) (t : Tap) : (s.setTap i t).board = s.board := rfl
@[simp] theorem setTap_devResult (s : State) (i : ChanNo) (t : Tap) : (s.setTap i t).devResult = s.devResult := rfl
@[simp] theorem setTap_resetPending (s : State) (i : ChanNo) (t : Tap) : (s.setTap i t).resetPending = s.resetPending := rfl
@[simp] theorem setTap_flags (s : State) (i : ChanNo) (t : Tap) : (s.setTap i t).flags = s.flags := rfl
@[simp] theorem setTap_notice (s : State) (i : ChanNo) (t : Tap) : (s.setTap i t).notice = s.notice := rfl
@[simp] theorem setTap_reads (s : State) (i : ChanNo) (t : Tap) : (s.setTap i t).reads = s.reads := rfl
@[simp] theorem setTap_writes (s : State) (i : ChanNo) (t : Tap) : (s.setTap i t).writes = s.writes := rfl
@[simp] theorem setTap_lastGrant (s : State) (i : ChanNo) (t : Tap) : (s.setTap i t).lastGrant = s.lastGrant := rfl
@[simp] theorem setTap_servedRead (s : State) (i : ChanNo) (t : Tap) : (s.setTap i t).servedRead = s.servedRead := rfl
@[simp] theorem setTap_servedResp (s : State) (i : ChanNo) (t : Tap) : (s.setTap i t).servedResp = s.servedResp := rfl

@[simp] theorem setSrc_pending (s : State) (i : SrcNo) (r : Source) : (s.setSrc i r).pending = s.pending := rfl
@[simp] theorem setSrc_trace (s : State) (i : SrcNo) (r : Source) : (s.setSrc i r).trace = s.trace := rfl
@[simp] theorem setSrc_freeCount (s : State) (i : SrcNo) (r : Source) : (s.setSrc i r).freeCount = s.freeCount := rfl
@[simp] theorem setSrc_resetN (s : State) (i : SrcNo) (r : Source) : (s.setSrc i r).resetN = s.resetN := rfl
@[simp] theorem setSrc_apBase (s : State) (i : SrcNo) (r : Source) : (s.setSrc i r).apBase = s.apBase := rfl
@[simp] theorem setSrc_timebase (s : State) (i : SrcNo) (r : Source) : (s.setSrc i r).timebase = s.timebase := rfl
@[simp] theorem setSrc_timebaseDiv (s : State) (i : SrcNo) (r : Source) : (s.setSrc i r).timebaseDiv = s.timebaseDiv := rfl
@[simp] theorem setSrc_divCount (s : State) (i : SrcNo) (r : Source) : (s.setSrc i r).divCount = s.divCount := rfl
@[simp] theorem setSrc_table (s : State) (i : SrcNo) (r : Source) : (s.setSrc i r).table = s.table := rfl
@[simp] theorem setSrc_inspect (s : State) (i : SrcNo) (r : Source) : (s.setSrc i r).inspect = s.inspect := rfl
@[simp] theorem setSrc_taps (s : State) (i : SrcNo) (r : Source) : (s.setSrc i r).taps = s.taps := rfl
@[simp] theorem setSrc_chans (s : State) (i : SrcNo) (r : Source) : (s.setSrc i r).chans = s.chans := rfl
@[simp] theorem setSrc_rangeShift (s : State) (i : SrcNo) (r : Source) : (s.setSrc i r).rangeShift = s.rangeShift := rfl
@[simp] theorem setSrc_comp (s : State) (i : SrcNo) (r : Source) : (s.setSrc i r).comp = s.comp := rfl
@[simp] theorem setSrc_learnTarget (s : State) (i : SrcNo) (r : Source) : (s.setSrc i r).learnTarget = s.learnTarget := rfl
@[simp] theorem setSrc_band (s : State) (i : SrcNo) (r : Source) : (s.setSrc i r).band = s.band := rfl
@[simp] theorem setSrc_writer (s : State) (i : SrcNo) (r : Source) : (s.setSrc i r).writer = s.writer := rfl
@[simp] theorem setSrc_queue (s : State) (i : SrcNo) (r : Source) : (s.setSrc i r).queue = s.queue := rfl
@[simp] theorem setSrc_move (s : State) (i : SrcNo) (r : Source) : (s.setSrc i r).move = s.move := rfl
@[simp] theorem setSrc_boardOpen (s : State) (i : SrcNo) (r : Source) : (s.setSrc i r).boardOpen = s.boardOpen := rfl
@[simp] theorem setSrc_board (s : State) (i : SrcNo) (r : Source) : (s.setSrc i r).board = s.board := rfl
@[simp] theorem setSrc_devResult (s : State) (i : SrcNo) (r : Source) : (s.setSrc i r).devResult = s.devResult := rfl
@[simp] theorem setSrc_resetPending (s : State) (i : SrcNo) (r : Source) : (s.setSrc i r).resetPending = s.resetPending := rfl
@[simp] theorem setSrc_flags (s : State) (i : SrcNo) (r : Source) : (s.setSrc i r).flags = s.flags := rfl
@[simp] theorem setSrc_notice (s : State) (i : SrcNo) (r : Source) : (s.setSrc i r).notice = s.notice := rfl
@[simp] theorem setSrc_reads (s : State) (i : SrcNo) (r : Source) : (s.setSrc i r).reads = s.reads := rfl
@[simp] theorem setSrc_writes (s : State) (i : SrcNo) (r : Source) : (s.setSrc i r).writes = s.writes := rfl
@[simp] theorem setSrc_lastGrant (s : State) (i : SrcNo) (r : Source) : (s.setSrc i r).lastGrant = s.lastGrant := rfl
@[simp] theorem setSrc_servedRead (s : State) (i : SrcNo) (r : Source) : (s.setSrc i r).servedRead = s.servedRead := rfl
@[simp] theorem setSrc_servedResp (s : State) (i : SrcNo) (r : Source) : (s.setSrc i r).servedResp = s.servedResp := rfl

@[simp] theorem setDevResult_pending (r : ResultCode) (s : State) : (setDevResult r s).pending = s.pending := rfl
@[simp] theorem setDevResult_trace (r : ResultCode) (s : State) : (setDevResult r s).trace = s.trace := rfl
@[simp] theorem setDevResult_freeCount (r : ResultCode) (s : State) : (setDevResult r s).freeCount = s.freeCount := rfl
@[simp] theorem setDevResult_resetN (r : ResultCode) (s : State) : (setDevResult r s).resetN = s.resetN := rfl
@[simp] theorem setDevResult_apBase (r : ResultCode) (s : State) : (setDevResult r s).apBase = s.apBase := rfl
@[simp] theorem setDevResult_timebase (r : ResultCode) (s : State) : (setDevResult r s).timebase = s.timebase := rfl
@[simp] theorem setDevResult_timebaseDiv (r : ResultCode) (s : State) : (setDevResult r s).timebaseDiv = s.timebaseDiv := rfl
@[simp] theorem setDevResult_divCount (r : ResultCode) (s : State) : (setDevResult r s).divCount = s.divCount := rfl
@[simp] theorem setDevResult_table (r : ResultCode) (s : State) : (setDevResult r s).table = s.table := rfl
@[simp] theorem setDevResult_inspect (r : ResultCode) (s : State) : (setDevResult r s).inspect = s.inspect := rfl
@[simp] theorem setDevResult_taps (r : ResultCode) (s : State) : (setDevResult r s).taps = s.taps := rfl
@[simp] theorem setDevResult_chans (r : ResultCode) (s : State) : (setDevResult r s).chans = s.chans := rfl
@[simp] theorem setDevResult_rangeShift (r : ResultCode) (s : State) : (setDevResult r s).rangeShift = s.rangeShift := rfl
@[simp] theorem setDevResult_comp (r : ResultCode) (s : State) : (setDevResult r s).comp = s.comp := rfl
@[simp] theorem setDevResult_learnTarget (r : ResultCode) (s : State) : (setDevResult r s).learnTarget = s.learnTarget := rfl
@[simp] theorem setDevResult_band (r : ResultCode) (s : State) : (setDevResult r s).band = s.band := rfl
@[simp] theorem setDevResult_writer (r : ResultCode) (s : State) : (setDevResult r s).writer = s.writer := rfl
@[simp] theorem setDevResult_queue (r : ResultCode) (s : State) : (setDevResult r s).queue = s.queue := rfl
@[simp] theorem setDevResult_srcs (r : ResultCode) (s : State) : (setDevResult r s).srcs = s.srcs := rfl
@[simp] theorem setDevResult_move (r : ResultCode) (s : State) : (setDevResult r s).move = s.move := rfl
@[simp] theorem setDevResult_boardOpen (r : ResultCode) (s : State) : (setDevResult r s).boardOpen = s.boardOpen := rfl
@[simp] theorem setDevResult_board (r : ResultCode) (s : State) : (setDevResult r s).board = s.board := rfl
@[simp] theorem setDevResult_resetPending (r : ResultCode) (s : State) : (setDevResult r s).resetPending = s.resetPending := rfl
@[simp] theorem setDevResult_flags (r : ResultCode) (s : State) : (setDevResult r s).flags = s.flags := rfl
@[simp] theorem setDevResult_notice (r : ResultCode) (s : State) : (setDevResult r s).notice = s.notice := rfl
@[simp] theorem setDevResult_reads (r : ResultCode) (s : State) : (setDevResult r s).reads = s.reads := rfl
@[simp] theorem setDevResult_writes (r : ResultCode) (s : State) : (setDevResult r s).writes = s.writes := rfl
@[simp] theorem setDevResult_lastGrant (r : ResultCode) (s : State) : (setDevResult r s).lastGrant = s.lastGrant := rfl
@[simp] theorem setDevResult_servedRead (r : ResultCode) (s : State) : (setDevResult r s).servedRead = s.servedRead := rfl
@[simp] theorem setDevResult_servedResp (r : ResultCode) (s : State) : (setDevResult r s).servedResp = s.servedResp := rfl

end Sys2Proof.Machine
end

