-- ==== Sys2Proof/Laws/Access.lean ====
section
/-! SUPPORT. Reading back what an update wrote: channels, taps, sources and entries through each update. -/

namespace Sys2Proof.Machine

open Sys2Proof

@[simp] theorem emit_ch (p : PortTransfer) (s : State) (j : ChanNo) : (emit p s).ch j = s.ch j := rfl
@[simp] theorem emit_tap (p : PortTransfer) (s : State) (j : ChanNo) : (emit p s).tap j = s.tap j := rfl
@[simp] theorem emit_src (p : PortTransfer) (s : State) (j : SrcNo) : (emit p s).src j = s.src j := rfl
@[simp] theorem emit_entry (p : PortTransfer) (s : State) (j : Nat) : (emit p s).entry j = s.entry j := rfl

@[simp] theorem withFlags_ch (f : DeviceFlags → DeviceFlags) (s : State) (j : ChanNo) : (withFlags f s).ch j = s.ch j := rfl
@[simp] theorem withFlags_tap (f : DeviceFlags → DeviceFlags) (s : State) (j : ChanNo) : (withFlags f s).tap j = s.tap j := rfl
@[simp] theorem withFlags_src (f : DeviceFlags → DeviceFlags) (s : State) (j : SrcNo) : (withFlags f s).src j = s.src j := rfl
@[simp] theorem withFlags_entry (f : DeviceFlags → DeviceFlags) (s : State) (j : Nat) : (withFlags f s).entry j = s.entry j := rfl

@[simp] theorem setEntry_ch (s : State) (n : Nat) (e : Entry) (j : ChanNo) : (s.setEntry n e).ch j = s.ch j := rfl
@[simp] theorem setEntry_tap (s : State) (n : Nat) (e : Entry) (j : ChanNo) : (s.setEntry n e).tap j = s.tap j := rfl
@[simp] theorem setEntry_src (s : State) (n : Nat) (e : Entry) (j : SrcNo) : (s.setEntry n e).src j = s.src j := rfl

@[simp] theorem setCh_tap (s : State) (i : ChanNo) (c : Channel) (j : ChanNo) : (s.setCh i c).tap j = s.tap j := rfl
@[simp] theorem setCh_src (s : State) (i : ChanNo) (c : Channel) (j : SrcNo) : (s.setCh i c).src j = s.src j := rfl
@[simp] theorem setCh_entry (s : State) (i : ChanNo) (c : Channel) (j : Nat) : (s.setCh i c).entry j = s.entry j := rfl

@[simp] theorem setTap_ch (s : State) (i : ChanNo) (t : Tap) (j : ChanNo) : (s.setTap i t).ch j = s.ch j := rfl
@[simp] theorem setTap_src (s : State) (i : ChanNo) (t : Tap) (j : SrcNo) : (s.setTap i t).src j = s.src j := rfl
@[simp] theorem setTap_entry (s : State) (i : ChanNo) (t : Tap) (j : Nat) : (s.setTap i t).entry j = s.entry j := rfl

@[simp] theorem setSrc_ch (s : State) (i : SrcNo) (r : Source) (j : ChanNo) : (s.setSrc i r).ch j = s.ch j := rfl
@[simp] theorem setSrc_tap (s : State) (i : SrcNo) (r : Source) (j : ChanNo) : (s.setSrc i r).tap j = s.tap j := rfl
@[simp] theorem setSrc_entry (s : State) (i : SrcNo) (r : Source) (j : Nat) : (s.setSrc i r).entry j = s.entry j := rfl

@[simp] theorem setDevResult_ch (r : ResultCode) (s : State) (j : ChanNo) : (setDevResult r s).ch j = s.ch j := rfl
@[simp] theorem setDevResult_tap (r : ResultCode) (s : State) (j : ChanNo) : (setDevResult r s).tap j = s.tap j := rfl
@[simp] theorem setDevResult_src (r : ResultCode) (s : State) (j : SrcNo) : (setDevResult r s).src j = s.src j := rfl
@[simp] theorem setDevResult_entry (r : ResultCode) (s : State) (j : Nat) : (setDevResult r s).entry j = s.entry j := rfl

@[simp] theorem emit_trace (p : PortTransfer) (s : State) : (emit p s).trace = s.trace ++ [p] := rfl
@[simp] theorem withFlags_flags (f : DeviceFlags → DeviceFlags) (s : State) : (withFlags f s).flags = f s.flags := rfl
@[simp] theorem setDevResult_devResult (r : ResultCode) (s : State) : (setDevResult r s).devResult = r := rfl

/-- A channel set is the channel read back, and no other channel changes. -/
theorem setCh_ch (s : State) (i j : ChanNo) (c : Channel) : (s.setCh i c).ch j = if i = j then c else s.ch j := by
  simp only [State.setCh, State.ch, Vector.getElem_set, Fin.ext_iff]

@[simp] theorem setCh_ch_same (s : State) (i : ChanNo) (c : Channel) : (s.setCh i c).ch i = c := by
  simp [setCh_ch]

@[simp] theorem setCh_ch_other (s : State) (i j : ChanNo) (c : Channel) (h : i ≠ j) :
    (s.setCh i c).ch j = s.ch j := by simp [setCh_ch, h]

/-- A tap set is the tap read back, and no other tap changes. -/
theorem setTap_tap (s : State) (i j : ChanNo) (t : Tap) : (s.setTap i t).tap j = if i = j then t else s.tap j := by
  simp only [State.setTap, State.tap, Vector.getElem_set, Fin.ext_iff]

@[simp] theorem setTap_tap_same (s : State) (i : ChanNo) (t : Tap) : (s.setTap i t).tap i = t := by
  simp [setTap_tap]

@[simp] theorem setTap_tap_other (s : State) (i j : ChanNo) (t : Tap) (h : i ≠ j) :
    (s.setTap i t).tap j = s.tap j := by simp [setTap_tap, h]

/-- A source set is the source read back, and no other source changes. -/
theorem setSrc_src (s : State) (i j : SrcNo) (r : Source) : (s.setSrc i r).src j = if i = j then r else s.src j := by
  simp only [State.setSrc, State.src, Vector.getElem_set, Fin.ext_iff]

@[simp] theorem setSrc_src_same (s : State) (i : SrcNo) (r : Source) : (s.setSrc i r).src i = r := by
  simp [setSrc_src]

@[simp] theorem setSrc_src_other (s : State) (i j : SrcNo) (r : Source) (h : i ≠ j) :
    (s.setSrc i r).src j = s.src j := by simp [setSrc_src, h]

/-- Two states with the same channel vector read the same channels. -/
theorem ch_congr {s t : State} (h : t.chans = s.chans) (i : ChanNo) : t.ch i = s.ch i := by simp [State.ch, h]

/-- Two states with the same taps read the same taps. -/
theorem tap_congr {s t : State} (h : t.taps = s.taps) (i : ChanNo) : t.tap i = s.tap i := by simp [State.tap, h]

/-- Two states with the same sources read the same sources. -/
theorem src_congr {s t : State} (h : t.srcs = s.srcs) (i : SrcNo) : t.src i = s.src i := by simp [State.src, h]

/-- Two states with the same table read the same entries. -/
theorem entry_congr {s t : State} (h : t.table = s.table) (n : Nat) : t.entry n = s.entry n := by
  simp [State.entry, h]

/-- A mapped channel vector read back. -/
theorem mapChannels_get (f : Channel → Channel) (v : Vector Channel 8) (i : ChanNo) :
    (mapChannels f v)[i.val]'i.isLt = f (v[i.val]'i.isLt) := by
  fin_cases i <;> rfl

/-- A mapped tap vector read back. -/
theorem mapTaps_get (f : Tap → Tap) (v : Vector Tap 8) (i : ChanNo) :
    (mapTaps f v)[i.val]'i.isLt = f (v[i.val]'i.isLt) := by
  fin_cases i <;> rfl

/-- A mapped source vector read back. -/
theorem mapSources_get (f : Source → Source) (v : Vector Source 4) (i : SrcNo) :
    (mapSources f v)[i.val]'i.isLt = f (v[i.val]'i.isLt) := by
  fin_cases i <;> rfl

/-- All-idle is every channel IDLE. -/
theorem allIdle_iff (s : State) : s.allIdle = true ↔ ∀ i, (s.ch i).state = .idle := by
  simp only [State.allIdle, allChannels, List.all_cons, List.all_nil, Bool.and_eq_true, Bool.and_true,
    Channel.isIdle, beq_iff_eq]
  constructor
  · rintro ⟨h0, h1, h2, h3, h4, h5, h6, h7⟩ i
    fin_cases i <;> assumption
  · intro h; exact ⟨h 0, h 1, h 2, h 3, h 4, h 5, h 6, h 7⟩

/-- Every channel number is listed. -/
theorem mem_allChannels (i : ChanNo) : i ∈ allChannels := by fin_cases i <;> simp [allChannels]

/-- Every source number is listed. -/
theorem mem_allSources (i : SrcNo) : i ∈ allSources := by fin_cases i <;> simp [allSources]

end Sys2Proof.Machine
end

