-- ==== Sys2Proof/Laws/Table.lean ====
section
/-! SUPPORT. Laws of the step table: read after write, and the canonical form kept by every table operation. -/

namespace Sys2Proof.Machine

open Sys2Proof

/-- Reading a step after its erasure gives the reset values; other steps are as they were. -/
theorem Table.get_erase (t : Table) (n m : Nat) :
    Table.get (Table.erase n t) m = if n = m then Entry.reset else Table.get t m := by
  induction t with
  | nil => simp [Table.erase, Table.get]
  | cons p rest ih =>
    obtain ⟨k, d⟩ := p
    by_cases hk : k = n <;> by_cases hm : n = m <;> simp_all [Table.erase, Table.get]

/-- An erased step is not listed. -/
theorem Table.not_mem_erase (t : Table) (n : Nat) (d : Entry) : (n, d) ∉ Table.erase n t := by
  induction t with
  | nil => simp [Table.erase]
  | cons p rest ih =>
    obtain ⟨k, c⟩ := p
    by_cases hk : k = n <;> simp_all [Table.erase]
    intro h; exact absurd h.symm hk

/-- Reading after an insertion of a step that was not listed. -/
theorem Table.get_insert (t : Table) (n m : Nat) (e : Entry) (h : ∀ d, (n, d) ∉ t) :
    Table.get (Table.insert n e t) m = if n = m then e else Table.get t m := by
  induction t with
  | nil => simp [Table.insert, Table.get]
  | cons p rest ih =>
    obtain ⟨k, c⟩ := p
    have hk : k ≠ n := by rintro rfl; exact h c (by simp)
    have hr : ∀ d, (n, d) ∉ rest := fun d hd => h d (by simp [hd])
    by_cases hlt : n < k
    · simp [Table.insert, hlt, Table.get]
    · simp only [Table.insert, hlt, if_false, Table.get, ih hr]
      by_cases hm : n = m
      · subst hm; simp [hk]
      · simp [hm]

/-- Read after write on the table. -/
theorem Table.get_set (t : Table) (n m : Nat) (e : Entry) :
    Table.get (Table.set t n e) m = if n = m then e else Table.get t m := by
  by_cases he : e = Entry.reset
  · subst he; simp [Table.set, Table.get_erase]
  · rw [Table.set, if_neg he, Table.get_insert _ _ _ _ (Table.not_mem_erase t n), Table.get_erase]
    by_cases hm : n = m <;> simp [hm]

/-- Read after write on the state. -/
theorem setEntry_entry (s : State) (n m : Nat) (e : Entry) :
    (s.setEntry n e).entry m = if n = m then e else s.entry m := by
  simp [State.setEntry, State.entry, Table.get_set]

@[simp] theorem setEntry_entry_same (s : State) (n : Nat) (e : Entry) : (s.setEntry n e).entry n = e := by
  simp [setEntry_entry]

@[simp] theorem setEntry_entry_other (s : State) (n m : Nat) (e : Entry) (h : n ≠ m) :
    (s.setEntry n e).entry m = s.entry m := by simp [setEntry_entry, h]

/-! ### The canonical form -/

theorem Table.wfFrom_mono {t : Table} {a b : Nat} (h : Table.wfFrom b t = true) (hab : a ≤ b) :
    Table.wfFrom a t = true := by
  cases t with
  | nil => rfl
  | cons p rest =>
    obtain ⟨k, d⟩ := p
    simp only [Table.wfFrom, Bool.and_eq_true, decide_eq_true_eq] at h ⊢
    exact ⟨⟨le_trans hab h.1.1, h.1.2⟩, h.2⟩

theorem Table.wfFrom_consEntry {t : Table} {a n : Nat} (e : Entry) (hn : a ≤ n) (h : Table.wfFrom (n + 1) t = true) :
    Table.wfFrom a (Table.consEntry n e t) = true := by
  by_cases he : e = Entry.reset
  · simp only [Table.consEntry, he, if_true]; exact Table.wfFrom_mono h (by omega)
  · simp [Table.consEntry, he, Table.wfFrom, hn, h]

/-- Every key of a canonical table is at least its bound. -/
theorem Table.wfFrom_key {t : Table} {a k : Nat} {d : Entry} (h : Table.wfFrom a t = true) (hm : (k, d) ∈ t) :
    a ≤ k := by
  induction t generalizing a with
  | nil => simp at hm
  | cons p rest ih =>
    obtain ⟨j, c⟩ := p
    simp only [Table.wfFrom, Bool.and_eq_true, decide_eq_true_eq] at h
    rcases List.mem_cons.1 hm with heq | hr
    · cases heq; exact h.1.1
    · have := ih h.2 hr; omega

/-- Erasing keeps the canonical form. -/
theorem Table.wfFrom_erase {t : Table} {a : Nat} (n : Nat) (h : Table.wfFrom a t = true) :
    Table.wfFrom a (Table.erase n t) = true := by
  induction t generalizing a with
  | nil => rfl
  | cons p rest ih =>
    obtain ⟨k, d⟩ := p
    simp only [Table.wfFrom, Bool.and_eq_true, decide_eq_true_eq] at h
    by_cases hk : k = n
    · simp only [Table.erase, hk, if_true]; exact Table.wfFrom_mono (ih h.2) (by omega)
    · simp [Table.erase, hk, Table.wfFrom, h.1.1, h.1.2, ih h.2]

/-- Inserting a step that is not listed keeps the canonical form. -/
theorem Table.wfFrom_insert {t : Table} {a n : Nat} {e : Entry} (he : e ≠ Entry.reset) (hn : a ≤ n)
    (hno : ∀ d, (n, d) ∉ t) (h : Table.wfFrom a t = true) : Table.wfFrom a (Table.insert n e t) = true := by
  induction t generalizing a with
  | nil => simp [Table.insert, Table.wfFrom, hn, he]
  | cons p rest ih =>
    obtain ⟨k, d⟩ := p
    have hk : k ≠ n := by rintro rfl; exact hno d (by simp)
    simp only [Table.wfFrom, Bool.and_eq_true, decide_eq_true_eq] at h
    by_cases hlt : n < k
    · simp only [Table.insert, hlt, if_true, Table.wfFrom, Bool.and_eq_true, decide_eq_true_eq]
      exact ⟨⟨hn, he⟩, ⟨by omega, h.1.2⟩, h.2⟩
    · simp only [Table.insert, hlt, if_false, Table.wfFrom, Bool.and_eq_true, decide_eq_true_eq]
      exact ⟨h.1, ih (by omega) (fun d hd => hno d (by simp [hd])) h.2⟩

/-- Setting an entry keeps the canonical form. -/
theorem Table.wf_set {t : Table} (n : Nat) (e : Entry) (h : Table.wf t = true) :
    Table.wf (Table.set t n e) = true := by
  unfold Table.set
  split
  · exact Table.wfFrom_erase n h
  · exact Table.wfFrom_insert ‹_› (Nat.zero_le _) (Table.not_mem_erase t n) (Table.wfFrom_erase n h)

/-- A change of every entry keeps the canonical form. -/
theorem Table.wfFrom_mapAll {t : Table} {a : Nat} (f : Entry → Entry) (h : Table.wfFrom a t = true) :
    Table.wfFrom a (Table.mapAll f t) = true := by
  induction t generalizing a with
  | nil => rfl
  | cons p rest ih =>
    obtain ⟨k, d⟩ := p
    simp only [Table.wfFrom, Bool.and_eq_true, decide_eq_true_eq] at h
    exact Table.wfFrom_consEntry (f d) h.1.1 (ih h.2)

/-- A change of every entry keeps the canonical form. -/
theorem Table.wf_mapAll {t : Table} (f : Entry → Entry) (h : Table.wf t = true) :
    Table.wf (Table.mapAll f t) = true := Table.wfFrom_mapAll f h

/-- A step below the bound of a canonical table holds its reset values. -/
theorem Table.get_below {t : Table} {a n : Nat} (h : Table.wfFrom a t = true) (hn : n < a) :
    Table.get t n = Entry.reset := by
  induction t generalizing a with
  | nil => rfl
  | cons p rest ih =>
    obtain ⟨k, d⟩ := p
    simp only [Table.wfFrom, Bool.and_eq_true, decide_eq_true_eq] at h
    have hk : k ≠ n := by omega
    simp only [Table.get, hk, if_false]
    exact ih h.2 (by omega)

/-- Reading after a change of every entry that keeps the reset values. -/
theorem Table.get_mapAll {t : Table} {a : Nat} (f : Entry → Entry) (hf : f Entry.reset = Entry.reset)
    (h : Table.wfFrom a t = true) (n : Nat) : Table.get (Table.mapAll f t) n = f (Table.get t n) := by
  induction t generalizing a with
  | nil => simp [Table.mapAll, Table.get, hf]
  | cons p rest ih =>
    obtain ⟨k, d⟩ := p
    simp only [Table.wfFrom, Bool.and_eq_true, decide_eq_true_eq] at h
    have ih' := ih h.2
    by_cases hk : k = n
    · subst hk
      by_cases he : f d = Entry.reset
      · simp only [Table.mapAll, Table.consEntry, he, if_true, Table.get]
        rw [ih', Table.get_below h.2 (by omega), hf]
      · simp [Table.mapAll, Table.consEntry, he, Table.get]
    · by_cases he : f d = Entry.reset
      · simp [Table.mapAll, Table.consEntry, he, Table.get, hk, ih']
      · simp [Table.mapAll, Table.consEntry, he, Table.get, hk, ih']

end Sys2Proof.Machine
end

