-- ==== Sys2Proof/Laws/Frames.lean ====
section
/-! SUPPORT. What each shared operation of the engines leaves unchanged: the frame `EngineFrame`, once per operation. -/

namespace Sys2Proof.Safety

open Sys2Proof Sys2Proof.Machine

theorem EngineFrame.refl (s : State) : EngineFrame s s := ⟨rfl⟩

theorem EngineFrame.trans {s t u : State} (h : EngineFrame s t) (k : EngineFrame t u) : EngineFrame s u := by
  constructor
  have hk := k.eq
  rw [hk]
  generalize u.table = a, u.chans = b, u.queue = c, u.writer.state = d, u.writer.flight = e
  rw [h.eq]

theorem EngineFrame.of_eq {s t : State} (h : t = s) : EngineFrame s t := h ▸ EngineFrame.refl s

/-- The fields outside the engines, read through a frame. -/
theorem EngineFrame.fields {s t : State} (h : EngineFrame s t) :
    t.pending = s.pending ∧ t.trace = s.trace ∧ t.freeCount = s.freeCount ∧ t.resetN = s.resetN ∧
      t.apBase = s.apBase ∧ t.timebase = s.timebase ∧ t.timebaseDiv = s.timebaseDiv ∧ t.divCount = s.divCount ∧
      t.inspect = s.inspect ∧ t.taps = s.taps ∧ t.rangeShift = s.rangeShift ∧ t.comp = s.comp ∧
      t.learnTarget = s.learnTarget ∧ t.band = s.band ∧ t.srcs = s.srcs ∧ t.move = s.move ∧
      t.boardOpen = s.boardOpen ∧ t.board = s.board ∧ t.devResult = s.devResult ∧
      t.resetPending = s.resetPending ∧ t.flags = s.flags ∧ t.notice = s.notice ∧ t.reads = s.reads ∧
      t.writes = s.writes ∧ t.lastGrant = s.lastGrant ∧ t.servedRead = s.servedRead ∧
      t.servedResp = s.servedResp := by
  rw [h.eq]; simp

/-- The writer's configuration and indices, read through a frame. -/
theorem EngineFrame.writerEq {s t : State} (h : EngineFrame s t) :
    t.writer = { s.writer with state := t.writer.state, flight := t.writer.flight } :=
  congrArg State.writer h.eq

theorem EngineFrame.srcEq {s t : State} (h : EngineFrame s t) (i : SrcNo) : t.src i = s.src i := by
  obtain ⟨-, -, -, -, -, -, -, -, -, -, -, -, -, -, hs, -⟩ := h.fields
  exact src_congr hs i

theorem EngineFrame.tapEq {s t : State} (h : EngineFrame s t) (i : ChanNo) : t.tap i = s.tap i := by
  obtain ⟨-, -, -, -, -, -, -, -, -, ht, -⟩ := h.fields
  exact tap_congr ht i

theorem EngineFrame.setCh (s : State) (i : ChanNo) (c : Channel) : EngineFrame s (s.setCh i c) := ⟨rfl⟩

theorem EngineFrame.setEntry (s : State) (n : Nat) (e : Entry) : EngineFrame s (s.setEntry n e) := ⟨rfl⟩

end Sys2Proof.Safety

namespace Sys2Proof.Machine

open Sys2Proof Sys2Proof.Safety

/-- What `beginWrite` does: nothing, or the start of the head channel's record write (R112). -/
theorem beginWrite_cases (s : State) :
    beginWrite s = s ∨
      ∃ head rest v, s.queue = head :: rest ∧ (s.ch head).held = some v ∧ s.writer.state = .ready ∧
        Writer.fill s.writer < Writer.slots s.writer ∧
        beginWrite s = { s with writer := { s.writer with
          state := .writing,
          flight := some { kind := .record, addr := Writer.slotAddr s.writer s.writer.producer,
                           beats := Verdict.beats v s.writer.producer, phase := .request true } } } := by
  unfold beginWrite
  split
  · exact .inl rfl
  · rename_i head rest hq
    split
    · exact .inl rfl
    · rename_i v hv
      split
      · rename_i hc
        exact .inr ⟨head, rest, v, hq, hv, hc.1, hc.2, rfl⟩
      · exact .inl rfl

theorem beginWrite_frame (s : State) : EngineFrame s (beginWrite s) := by
  rcases beginWrite_cases s with h | ⟨_, _, _, _, _, _, _, h⟩ <;> rw [h] <;> exact ⟨rfl⟩

@[simp] theorem beginWrite_chans (s : State) : (beginWrite s).chans = s.chans := by
  rcases beginWrite_cases s with h | ⟨_, _, _, _, _, _, _, h⟩ <;> rw [h]

@[simp] theorem beginWrite_ch (s : State) (i : ChanNo) : (beginWrite s).ch i = s.ch i := ch_congr (beginWrite_chans s) i

@[simp] theorem beginWrite_table (s : State) : (beginWrite s).table = s.table := by
  rcases beginWrite_cases s with h | ⟨_, _, _, _, _, _, _, h⟩ <;> rw [h]

@[simp] theorem beginWrite_entry (s : State) (n : Nat) : (beginWrite s).entry n = s.entry n :=
  entry_congr (beginWrite_table s) n

@[simp] theorem beginWrite_queue (s : State) : (beginWrite s).queue = s.queue := by
  rcases beginWrite_cases s with h | ⟨_, _, _, _, _, _, _, h⟩ <;> rw [h]

@[simp] theorem joinQueue_ch (ch i : ChanNo) (s : State) : (joinQueue ch s).ch i = s.ch i := by
  simp [joinQueue]; rfl

@[simp] theorem joinQueue_entry (ch : ChanNo) (s : State) (n : Nat) : (joinQueue ch s).entry n = s.entry n := by
  simp [joinQueue]; rfl

@[simp] theorem joinQueue_table (ch : ChanNo) (s : State) : (joinQueue ch s).table = s.table := by
  simp [joinQueue]

@[simp] theorem joinQueue_queue (ch : ChanNo) (s : State) : (joinQueue ch s).queue = s.queue ++ [ch] := by
  simp [joinQueue]

theorem joinQueue_frame (ch : ChanNo) (s : State) : EngineFrame s (joinQueue ch s) :=
  EngineFrame.trans (t := { s with queue := s.queue ++ [ch] }) ⟨rfl⟩ (beginWrite_frame _)

theorem endRun_frame (ch : ChanNo) (e : Ending) (s : State) : EngineFrame s (endRun ch e s) := by
  unfold endRun
  split
  · exact .refl s
  · exact .trans (.trans (.setEntry s _ _) (.setCh _ _ _)) (joinQueue_frame ch _)

theorem startRun_frame (ch : ChanNo) (n : StepNo) (s : State) : EngineFrame s (startRun ch n s) :=
  .trans (.setEntry s _ _) (.setCh _ _ _)

theorem retry_frame (ch : ChanNo) (sn : Snapshot) (k : RetryCause) (n : Nat) (s : State) :
    EngineFrame s (retry ch sn k n s) := by
  unfold retry
  dsimp only
  split
  · exact .setCh _ _ _
  · exact .trans (.setCh s ch _) (endRun_frame _ _ _)

theorem judgeSet_frame (ch : ChanNo) (sn : Snapshot) (s : State) : EngineFrame s (judgeSet ch sn s) :=
  .trans (.setEntry s _ _) (endRun_frame _ _ _)

theorem completeSet_frame (ch : ChanNo) (sn : Snapshot) (s : State) : EngineFrame s (completeSet ch sn s) := by
  unfold completeSet
  dsimp only
  split
  · exact retry_frame _ _ _ _ _
  · exact judgeSet_frame _ _ _

theorem seekSample_frame (ch : ChanNo) (sn : Snapshot) (w : Word) (s : State) :
    EngineFrame s (seekSample ch sn w s) := by
  unfold seekSample
  dsimp only
  split <;> [split; skip] <;> exact .setCh _ _ _

theorem settleSample_frame (ch : ChanNo) (sn : Snapshot) (w : Word) (s : State) :
    EngineFrame s (settleSample ch sn w s) := by
  unfold settleSample
  dsimp only
  split
  · split <;> exact .setCh _ _ _
  · exact .trans (.setCh s ch _) (retry_frame _ _ _ _ _)

theorem joinSet_frame (ch : ChanNo) (sn : Snapshot) (w : Word) (c : Channel) (s : State) :
    EngineFrame s (joinSet ch sn w c s) := by
  unfold joinSet
  dsimp only
  split
  · exact .trans (.setCh s ch _) (completeSet_frame _ _ _)
  · exact .setCh _ _ _

theorem averageSample_frame (ch : ChanNo) (sn : Snapshot) (w : Word) (s : State) :
    EngineFrame s (averageSample ch sn w s) := by
  unfold averageSample
  dsimp only
  split
  · split
    · exact joinSet_frame _ _ _ _ _
    · exact .setCh _ _ _
  · exact .trans (.setCh s ch _) (retry_frame _ _ _ _ _)

theorem engineSample_frame (ch : ChanNo) (w : Word) (s : State) : EngineFrame s (engineSample ch w s) := by
  unfold engineSample
  dsimp only
  split
  · exact .refl s
  · exact .setCh _ _ _
  · exact seekSample_frame _ _ _ _
  · exact settleSample_frame _ _ _ _
  · exact averageSample_frame _ _ _ _
  all_goals exact .refl s

theorem engineStray_frame (ch : ChanNo) (s : State) : EngineFrame s (engineStray ch s) := by
  unfold engineStray
  dsimp only
  split
  · exact .refl s
  · exact .setCh _ _ _
  · exact .setCh _ _ _
  · exact .trans (.setCh s ch _) (retry_frame _ _ _ _ _)
  · exact .trans (.setCh s ch _) (retry_frame _ _ _ _ _)
  all_goals exact .refl s

theorem takeExpiry_frame (ch : ChanNo) (s : State) : EngineFrame s (takeExpiry ch s) := by
  unfold takeExpiry
  split
  · exact endRun_frame _ _ _
  · exact .refl s

/-- A fold of framed steps is framed. -/
theorem foldl_frame {f : State → ChanNo → State} (hf : ∀ s ch, EngineFrame s (f s ch)) (l : List ChanNo) (s : State) :
    EngineFrame s (l.foldl f s) := by
  induction l generalizing s with
  | nil => exact .refl s
  | cons a l ih => exact .trans (hf s a) (ih _)

theorem takeDueExpiries_frame (s : State) : EngineFrame s (takeDueExpiries s) :=
  foldl_frame (fun s ch => takeExpiry_frame ch s) _ s

theorem endGuarded_frame (src : SrcNo) (ch : ChanNo) (s : State) : EngineFrame s (endGuarded src ch s) := by
  unfold endGuarded
  split
  · exact endRun_frame _ _ _
  · exact .refl s

theorem endBoundRuns_frame (src : SrcNo) (s : State) : EngineFrame s (endBoundRuns src s) :=
  foldl_frame (fun s ch => endGuarded_frame src ch s) _ s

theorem meterRun_frame (src : SrcNo) (i : Word) (ch : ChanNo) (s : State) : EngineFrame s (meterRun src i ch s) := by
  unfold meterRun
  split
  · dsimp only
    split
    · exact .trans (.setCh s ch _) (endRun_frame _ _ _)
    · exact .setCh _ _ _
  · exact .refl s

theorem meterPair_frame (src : SrcNo) (i : Word) (s : State) : EngineFrame s (meterPair src i s) :=
  foldl_frame (fun s ch => meterRun_frame src i ch s) _ s

theorem setResult_frame (ch : ChanNo) (r : ResultCode) (s : State) : EngineFrame s (setResult ch r s) := .setCh _ _ _

theorem channelArm_frame (ch : ChanNo) (arg : BitVec 24) (s : State) : EngineFrame s (channelArm ch arg s) := by
  unfold channelArm
  dsimp only
  split
  · exact .trans (startRun_frame _ _ _) (setResult_frame _ _ _)
  · exact setResult_frame _ _ _

theorem channelAbort_frame (ch : ChanNo) (s : State) : EngineFrame s (channelAbort ch s) := by
  unfold channelAbort
  split
  · exact setResult_frame _ _ _
  · exact .trans (.setCh s ch _) (setResult_frame _ _ _)
  all_goals exact .trans (endRun_frame _ _ _) (setResult_frame _ _ _)

theorem channelCommand_frame (ch : ChanNo) (v : Word) (s : State) : EngineFrame s (channelCommand ch v s) := by
  unfold channelCommand
  split
  · exact channelArm_frame _ _ _
  · exact channelAbort_frame _ _
  · exact setResult_frame _ _ _

theorem chainStart_frame (ch : ChanNo) (t : StepNo) (s : State) : EngineFrame s (chainStart ch t s) := by
  unfold chainStart
  dsimp only
  split
  · exact .trans (startRun_frame _ _ _) (.setCh _ _ _)
  · exact startRun_frame _ _ _

theorem chainRefuse_frame (ch : ChanNo) (t : StepNo) (s : State) : EngineFrame s (chainRefuse ch t s) :=
  .trans (.setCh s ch _) (joinQueue_frame _ _)

/-- A release touches what an engine event touches, and may raise DRAINED (R56, R177). -/
theorem release_frame (ch : ChanNo) (s : State) :
    EngineFrame s (release ch s) ∨ ∃ u, EngineFrame s u ∧ release ch s = raiseDrained u := by
  unfold release
  split
  · unfold releaseIdle
    dsimp only
    split
    · exact .inr ⟨_, .setCh _ _ _, rfl⟩
    · exact .inl (.setCh _ _ _)
  · split
    · exact .inl (chainStart_frame _ _ _)
    · exact .inl (chainRefuse_frame _ _ _)

end Sys2Proof.Machine
end

