-- ==== Sys2Proof/Laws/Aperture.lean ====
section
/-! SUPPORT. Laws of the aperture: addresses of offsets, the numbers of configuration and command words, and the class of
an aperture word. -/

namespace Sys2Proof.Machine

open Sys2Proof

/-- The number of an aperture offset below 1 MiB as an address. -/
theorem apertureAddr_toNat (straps : BitVec 8) {offset : Nat} (h : offset < 0x100000) :
    (apertureAddr straps offset).toNat = straps.toNat * 0x100000 + offset := by
  have := straps.isLt
  unfold apertureAddr apertureBase
  simp [BitVec.toNat_shiftLeft]
  omega

/-- An offset is read back from its address. -/
theorem apertureOffset_apertureAddr (straps : BitVec 8) {offset : Nat} (h : offset < 0x100000) :
    apertureOffset straps (apertureAddr straps offset) = some offset := by
  unfold apertureOffset
  rw [apertureAddr_toNat straps h]
  have h1 : (straps.toNat * 0x100000 + offset) / 0x100000 = straps.toNat := by omega
  have h2 : (straps.toNat * 0x100000 + offset) % 0x100000 = offset := by omega
  rw [if_pos h1, h2]

/-- A word of the step area is handed to the step table (R150). -/
theorem classify_step (s : State) {offset : Nat} (h : offset < 0x40000) :
    s.classify (apertureAddr s.apBase offset) = .step offset := by
  unfold State.classify
  rw [apertureOffset_apertureAddr _ (by omega)]
  simp [areaOf, h]

/-- A word of the configuration area is handed to the control aperture (R150). -/
theorem classify_config (s : State) {offset : Nat} (h : 0x40000 ≤ offset) (h' : offset < 0x41000) :
    s.classify (apertureAddr s.apBase offset) = .config offset := by
  unfold State.classify
  rw [apertureOffset_apertureAddr _ (by omega)]
  have a : ¬ offset < 0x40000 := by omega
  simp [areaOf, a, h']

/-- A word of the command area is handed to the control aperture (R150). -/
theorem classify_command (s : State) {offset : Nat} (h : 0x41000 ≤ offset) (h' : offset < 0x42000) :
    s.classify (apertureAddr s.apBase offset) = .command offset := by
  unfold State.classify
  rw [apertureOffset_apertureAddr _ (by omega)]
  have a : ¬ offset < 0x40000 := by omega
  have b : ¬ offset < 0x41000 := by omega
  simp [areaOf, a, b, h']

/-- The number of a configuration word. -/
def ConfigWord.number (w : ConfigWord) : Nat := ConfigWord.offset w % 0x1000 / 4

/-- Every configuration word is found at its number. -/
theorem configWordNumber_number (w : ConfigWord) : configWordNumber (ConfigWord.number w) = some w := by
  cases w with
  | bandT i => fin_cases i <;> rfl
  | rangeShift r => fin_cases r <;> rfl
  | comp k b => fin_cases k <;> fin_cases b <;> rfl
  | sampleBase ch => fin_cases ch <;> rfl
  | sampleLen ch => fin_cases ch <;> rfl
  | monBase src => fin_cases src <;> rfl
  | monLen src => fin_cases src <;> rfl
  | iLimit src => fin_cases src <;> rfl
  | vLimit src => fin_cases src <;> rfl
  | pLimit src => fin_cases src <;> rfl
  | period src => fin_cases src <;> rfl
  | guardCtrl src => fin_cases src <;> rfl
  | _ => rfl

/-- Every configuration word is found at its offset (10.5). -/
theorem configWordAt_offset (w : ConfigWord) : configWordAt (ConfigWord.offset w) = some w :=
  configWordNumber_number w

/-- The offsets of configuration words lie in the configuration area. -/
theorem ConfigWord.offset_range (w : ConfigWord) : 0x40000 ≤ ConfigWord.offset w ∧ ConfigWord.offset w < 0x41000 := by
  cases w <;> simp only [ConfigWord.offset] <;> omega

/-- Every command word is found at its offset (10.6). -/
theorem commandWordAt_offset (w : CommandWord) : commandWordAt (CommandWord.offset w) = some w := by
  cases w with
  | chCmd ch => fin_cases ch <;> rfl
  | _ => rfl

/-- The offsets of command words lie in the command area. -/
theorem CommandWord.offset_range (w : CommandWord) :
    0x41000 ≤ CommandWord.offset w ∧ CommandWord.offset w < 0x42000 := by
  cases w <;> simp only [CommandWord.offset] <;> omega

/-- A number without a configuration word (10.5). -/
theorem configWordNumber_none {w : Nat}
    (h : 133 ≤ w ∨ 56 ≤ w ∧ w < 64 ∨ 80 ≤ w ∧ w < 96 ∨ 24 ≤ w ∧ w < 32 ∨ 12 ≤ w ∧ w < 16 ∨
      96 ≤ w ∧ w < 128 ∧ w % 8 = 7) : configWordNumber w = none := by
  have h1 : ¬ (8 ≤ w ∧ w < 11) := by omega
  have h2 : ¬ (16 ≤ w ∧ w < 24) := by omega
  have h3 : ¬ (32 ≤ w ∧ w < 56) := by omega
  have h4 : ¬ (64 ≤ w ∧ w < 80) := by omega
  have h5 : 96 ≤ w ∧ w < 128 → (w - 96) % 8 = 7 := by omega
  have h6 : w ≠ 0 ∧ w ≠ 1 ∧ w ≠ 2 ∧ w ≠ 3 ∧ w ≠ 4 ∧ w ≠ 5 ∧ w ≠ 6 ∧ w ≠ 7 ∧ w ≠ 11 := by omega
  by_cases hw : 133 ≤ w
  · have h7 : ¬ (96 ≤ w ∧ w < 128) := by omega
    have h8 : w ≠ 128 ∧ w ≠ 129 ∧ w ≠ 130 ∧ w ≠ 131 ∧ w ≠ 132 := by omega
    clear h hw
    unfold configWordNumber
    split
    all_goals first | (exfalso; simp_all; done) | simp only [h1, h2, h3, h4, h7, dite_false]
  · have h8 : w ≠ 128 ∧ w ≠ 129 ∧ w ≠ 130 ∧ w ≠ 131 ∧ w ≠ 132 := by omega
    clear h hw
    unfold configWordNumber
    split
    all_goals first | (exfalso; simp_all; done) | simp only [h1, h2, h3, h4, dite_false]
    split
    · rename_i h9; simp only [h5 h9, sourceWord]
    · rfl

/-- A number without a command word (10.6). -/
theorem commandWordNumber_none {w : Nat} (h : 12 ≤ w) : commandWordNumber w = none := by
  unfold commandWordNumber
  rw [dif_neg (by omega)]
  split <;> first | omega | rfl

/-- A full word of a beat at a configuration offset. -/
theorem handWord_configOffset (s : State) {offset : Nat} (h : 0x40000 ≤ offset) (h' : offset < 0x41000) (v : Word) :
    handWord (apertureAddr s.apBase offset) 0xF#4 v s = takeConfigOffset offset v s := by
  simp [handWord, classify_config s h h', apertureWord, absentStrobe, fullStrobe]

/-- A full word of a beat at a command offset. -/
theorem handWord_commandOffset (s : State) {offset : Nat} (h : 0x41000 ≤ offset) (h' : offset < 0x42000) (v : Word) :
    handWord (apertureAddr s.apBase offset) 0xF#4 v s = takeCommandOffset offset v s := by
  simp [handWord, classify_command s h h', apertureWord, absentStrobe, fullStrobe]

/-- A full configuration word of a beat is taken as its owner states. -/
theorem handWord_config (s : State) (w : ConfigWord) (v : Word) :
    handWord (apertureAddr s.apBase (ConfigWord.offset w)) 0xF#4 v s = takeConfigWord w v s := by
  rw [handWord_configOffset s (ConfigWord.offset_range w).1 (ConfigWord.offset_range w).2]
  unfold takeConfigOffset
  rw [configWordAt_offset]

/-- A full command word of a beat is taken as its owner states. -/
theorem handWord_command (s : State) (w : CommandWord) (v : Word) :
    handWord (apertureAddr s.apBase (CommandWord.offset w)) 0xF#4 v s = takeCommandWord w v s := by
  rw [handWord_commandOffset s (CommandWord.offset_range w).1 (CommandWord.offset_range w).2]
  unfold takeCommandOffset
  rw [commandWordAt_offset]

/-- A full step word of a beat is taken as its owner states. -/
theorem handWord_step (s : State) {offset : Nat} (h : offset < 0x40000) (v : Word) :
    handWord (apertureAddr s.apBase offset) 0xF#4 v s = takeStepWord offset v s := by
  simp [handWord, classify_step s h, apertureWord, absentStrobe, fullStrobe]

end Sys2Proof.Machine
end

