-- ==== Sys2Proof/Laws/Run.lean ====
section
/-! SUPPORT. What the shared operations of a run do, each said once: joining the queue, the end of a run, a retry, the
start of a run, the release of a channel, the completion of a plan reset, the response that the writer awaits, and the
kinds that a pair finds. -/

namespace Sys2Proof.Machine

open Sys2Proof Sys2Proof.Safety

/-- While RESET_N is high a command acts (R166). -/
theorem whileUp_up {f : State → State} {s : State} (h : s.resetN = true) : whileUp f s = f s := by
  unfold whileUp
  rw [if_pos h]

/-- While RESET_N is low nothing but the reset line is taken (R165). -/
theorem whileUp_down {f : State → State} {s : State} (h : s.resetN = false) : whileUp f s = s := by
  unfold whileUp
  rw [if_neg (by rw [h]; exact Bool.noConfusion)]

/-- The fill as a difference of indices modulo 65536 (R111). -/
theorem fill_eq (w : Writer) : Writer.fill w = fillOf w := by
  unfold Writer.fill fillOf
  have := w.consumer.isLt
  have := w.producer.isLt
  rw [BitVec.toNat_sub]
  omega

/-- A write begins for the head's verdict where the writer is READY and the ring has room (R112). -/
theorem beginWrite_starts {s : State} {head : ChanNo} {rest : List ChanNo} {v : Verdict} (hq : s.queue = head :: rest)
    (hv : (s.ch head).held = some v) (hr : s.writer.state = .ready)
    (hf : fillOf s.writer < 2 ^ s.writer.sizeCode.toNat) :
    beginWrite s = { s with
      writer := { s.writer with state := .writing, flight := some (recordFlight s.writer v) } } := by
  unfold beginWrite
  simp only [hq, hv]
  rw [if_pos ⟨hr, by rw [fill_eq]; exact hf⟩]
  rfl

/-- No write begins where the writer is not READY, no verdict waits or the ring is full (R112). -/
theorem beginWrite_waits {s : State}
    (h : s.writer.state ≠ .ready ∨ s.queue = [] ∨ 2 ^ s.writer.sizeCode.toNat ≤ fillOf s.writer) :
    beginWrite s = s := by
  rcases beginWrite_cases s with e | ⟨_, _, _, hq, _, h1, h2, _⟩
  · exact e
  · rw [fill_eq] at h2
    rcases h with h | h | h
    · exact absurd h1 h
    · rw [h] at hq; cases hq
    · exact absurd h2 (by simpa [Writer.slots, ringSlots] using h)

/-- A channel that holds a verdict joins the queue (R104, R112). -/
theorem joinQueue_joined {ch : ChanNo} {v : Verdict} {s : State} (h : (s.ch ch).held = some v) :
    Joined ch v s (joinQueue ch s) := by
  refine ⟨joinQueue_queue ch s, ?_, ?_⟩
  · intro hr hq hf
    unfold joinQueue
    have e := beginWrite_starts (s := { s with queue := s.queue ++ [ch] }) (head := ch) (rest := []) (v := v)
      (by show s.queue ++ [ch] = [ch]; rw [hq]; rfl) h hr hf
    rw [e]
  · intro hc
    unfold joinQueue
    rw [beginWrite_waits (s := { s with queue := s.queue ++ [ch] })
      (hc.elim .inl fun h => .inr (.inr h))]

/-- The verdict of a run without a judged set (R54). -/
theorem runVerdict_unjudged (s : State) (ch : ChanNo) (c : Channel) (sn : Snapshot) (o : VerdictCode) (n : Nat) :
    runVerdict s ch c sn { Ending.plain o with spread := n } = unjudged s ch c sn o n := by
  simp [runVerdict, unjudged, Ending.plain, State.boardField, saturate16, elapsedField, noBoard]

/-- The outcomes that suppress the chain (R53). -/
theorem suppresses_eq (o : VerdictCode) :
    VerdictCode.suppresses o = (o == .aborted || o == .guard || o == .charge) := by cases o <;> rfl

/-- The end of a run (R53). -/
theorem endRun_ended {ch : ChanNo} {s : State} {sn : Snapshot} (e : Ending) (hs : (s.ch ch).snapshot = some sn) :
    RunEnded ch (s.ch ch) sn (runVerdict s ch (s.ch ch) sn e) (s.entry sn.step.toNat).learn s (endRun ch e s) := by
  unfold endRun
  rw [hs]
  dsimp only
  set v := runVerdict s ch (s.ch ch) sn e with hv
  set u := (s.setEntry sn.step.toNat (Entry.endRun (s.entry sn.step.toNat))).setCh ch
    (Channel.toHolding (s.ch ch) v) with hu
  have hj : Joined ch v u (joinQueue ch u) := joinQueue_joined (by simp [hu, Channel.toHolding])
  refine { context := ?_, others := ?_, runs := ?_, entries := ?_, joined := ?_, frame := ?_ }
  · simp [hu, Channel.toHolding, suppresses_eq]
  · intro j hj
    rw [joinQueue_ch, hu, setCh_ch_other _ _ _ _ (Ne.symm hj), setEntry_ch]
  · rw [joinQueue_entry, hu, setCh_entry, setEntry_entry_same]; rfl
  · intro n hn
    rw [joinQueue_entry, hu, setCh_entry, setEntry_entry_other _ _ _ _ (Ne.symm hn)]
  · exact ⟨hj.queue, hj.begins, hj.stays⟩
  · exact .trans (.trans (.setEntry s _ _) (.setCh _ _ _)) (joinQueue_frame ch _)

/-- The end of a run without a judged set (R53, R54). -/
theorem endRun_unjudged {ch : ChanNo} {s : State} {sn : Snapshot} (o : VerdictCode) (n : Nat)
    (hs : (s.ch ch).snapshot = some sn) :
    EndedUnjudged ch (s.ch ch) sn o n s (endRun ch { Ending.plain o with spread := n } s) := by
  unfold EndedUnjudged
  rw [← runVerdict_unjudged]
  exact endRun_ended _ hs

/-- The end of a run without a judged set and without a spread (R53, R54). -/
theorem endRun_plain {ch : ChanNo} {s : State} {sn : Snapshot} (o : VerdictCode)
    (hs : (s.ch ch).snapshot = some sn) : EndedUnjudged ch (s.ch ch) sn o 0 s (endRun ch (Ending.plain o) s) :=
  endRun_unjudged o 0 hs

/-- An end of a run from a state with another context of the same channel is an end from the state itself. -/
theorem RunEnded_of_setCh {ch : ChanNo} {c d : Channel} {sn : Snapshot} {v : Verdict} {l : LearnRecord} {s t : State}
    (h : RunEnded ch c sn v l (s.setCh ch d) t) : RunEnded ch c sn v l s t where
  context := h.context
  others j hj := by rw [h.others j hj, setCh_ch_other _ _ _ _ (Ne.symm hj)]
  runs := h.runs
  entries := h.entries
  joined := ⟨h.joined.queue, h.joined.begins, h.joined.stays⟩
  frame := .trans (.setCh s ch d) h.frame

/-- A retry (R50). -/
theorem retry_taken {ch : ChanNo} {c : Channel} {sn : Snapshot} {cause : RetryCause} {n : Nat} {s : State}
    (hc : s.ch ch = c) (hs : c.snapshot = some sn) :
    RetryTaken ch c sn cause (RetryCause.outcome cause) n s (retry ch sn cause n s) := by
  subst hc
  constructor
  · intro h
    unfold retry
    dsimp only
    rw [if_pos h]
    rfl
  · intro h
    unfold retry
    dsimp only
    rw [if_neg (by omega)]
    have := endRun_unjudged (ch := ch) (s := s.setCh ch { s.ch ch with lastRetry := cause }) (sn := sn)
      (RetryCause.outcome cause) n (by simp [hs])
    simp only [setCh_ch_same] at this
    exact RunEnded_of_setCh this

/-- The context where settling begins (R44, R48, R58). -/
theorem settle_eq (c : Channel) (count : BitVec 8) (band : Band) :
    Channel.settle c count band = settling c count.toNat band := by
  unfold Channel.settle settling
  by_cases h : count = 0#8
  · simp [h, Channel.enterAveraging, Channel.clearSet, noSet]
  · have : count.toNat ≠ 0 := fun h' => h (BitVec.eq_of_toNat_eq (by simpa using h'))
    simp [h, this]

/-- The context at the start of a run (R42). -/
theorem start_eq (c : Channel) (sn : Snapshot) (now : BitVec 32) (band : Band) :
    Channel.start c sn now band = started c sn now band := by
  unfold Channel.start started noSet deadlineOf
  by_cases h : sn.host.timeLimit = 0#16
  · simp [h]
  · have : sn.host.timeLimit.toNat ≠ 0 := fun h' => h (BitVec.eq_of_toNat_eq (by simpa using h'))
    simp [h, this]

/-- The completion of a plan reset (R173, R174). -/
theorem completePlanReset_done {s : State} (h : Table.wf s.table = true) : PlanResetDone s (completePlanReset s) where
  channels ch := by
    show (mapChannels Channel.planReset s.chans)[ch.val]'ch.isLt = _
    rw [mapChannels_get]; rfl
  entries n := by
    show Table.get (Table.mapAll Entry.planReset s.table) n = _
    rw [Table.get_mapAll Entry.planReset rfl h]; rfl
  sources src := by
    show (mapSources Source.planReset s.srcs)[src.val]'src.isLt = _
    rw [mapSources_get]; rfl
  cursors ch := by
    show (mapTaps Tap.rewind s.taps)[ch.val]'ch.isLt = _
    rw [mapTaps_get]; rfl
  rest := rfl

/-- The writer awaits the response to a write of a kind exactly in WRITING with such a write sent (R114 to R116). -/
theorem awaits_iff (w : Writer) (k : WriteKind) : Writer.awaits w k = true ↔
    w.state = .writing ∧ ∃ f, w.flight = some f ∧ f.kind = k ∧ f.phase = .response := by
  unfold Writer.awaits
  cases w.flight <;> simp

/-- A pair finds the kinds of the values it compares (R131, R132). -/
theorem found_some {r : Source} {p : Pair} {v i : Int} (h : Source.compared r p = some (v, i)) :
    Source.found r p = Source.kindsFound r v i := by
  unfold Source.found
  rw [h]

/-- A pair that makes no comparison finds nothing (R131). -/
theorem found_none {r : Source} {p : Pair} (h : Source.compared r p = none) : Source.found r p = .empty := by
  unfold Source.found
  rw [h]

end Sys2Proof.Machine
end

