-- ==== Sys2Proof/Laws/Ended.lean ====
section
/-! SUPPORT. What several runs ending within one event do, said once: the due expiries, the runs that a trip ends, and the
runs that a pair's charge carries over their budgets. -/

namespace Sys2Proof.Machine

open Sys2Proof Sys2Proof.Safety

/-- An operation on one channel that either ends its run or changes its context alone, and that reads no more of the state
than that channel and what `EngineFrame` keeps. -/
structure EndsRuns (f : State → ChanNo → State) (ends : State → ChanNo → Bool) : Prop where
  ended : ∀ s ch, ends s ch = true → ∃ sn c v, (s.ch ch).snapshot = some sn ∧
    RunEnded ch c sn v (s.entry sn.step.toNat).learn s (f s ch)
  goes  : ∀ s ch, ends s ch = false → ∃ c, f s ch = s.setCh ch c
  reads : ∀ s t ch, EngineFrame s t → t.ch ch = s.ch ch →
    ends t ch = ends s ch ∧ (f t ch).ch ch = (f s ch).ch ch

namespace EndsRuns

variable {f : State → ChanNo → State} {ends : State → ChanNo → Bool}

/-- The operation touches engine state alone. -/
theorem frame (h : EndsRuns f ends) (s : State) (ch : ChanNo) : EngineFrame s (f s ch) := by
  cases e : ends s ch
  · obtain ⟨c, hc⟩ := h.goes s ch e
    rw [hc]
    exact .setCh _ _ _
  · obtain ⟨_, _, _, _, hr⟩ := h.ended s ch e
    exact hr.frame

/-- The operation leaves every other channel. -/
theorem other (h : EndsRuns f ends) (s : State) {ch j : ChanNo} (hj : j ≠ ch) : (f s ch).ch j = s.ch j := by
  cases e : ends s ch
  · obtain ⟨c, hc⟩ := h.goes s ch e
    rw [hc, setCh_ch_other _ _ _ _ (Ne.symm hj)]
  · obtain ⟨_, _, _, _, hr⟩ := h.ended s ch e
    exact hr.others j hj

/-- The operation over a list of channels leaves the others. -/
theorem fold_other (h : EndsRuns f ends) (l : List ChanNo) (s : State) {j : ChanNo} (hj : j ∉ l) :
    (l.foldl f s).ch j = s.ch j := by
  induction l generalizing s with
  | nil => rfl
  | cons a l ih =>
    rw [List.mem_cons, not_or] at hj
    rw [List.foldl_cons, ih _ hj.2, h.other s hj.1]

/-- The operation over a list of channels does to each what it does to it alone. -/
theorem fold_each (h : EndsRuns f ends) {l : List ChanNo} (hn : l.Nodup) (s : State) {j : ChanNo} (hj : j ∈ l) :
    (l.foldl f s).ch j = (f s j).ch j := by
  induction l generalizing s with
  | nil => cases hj
  | cons a l ih =>
    rw [List.nodup_cons] at hn
    rw [List.foldl_cons]
    by_cases e : j = a
    · subst e
      exact h.fold_other l _ hn.1
    · rw [ih hn.2 _ (by simpa [e] using hj)]
      exact (h.reads s _ j (h.frame s a) (h.other s e)).2

/-- The operation over a list of channels ends the runs it ends, in the order of the list. -/
theorem fold_runsEnded (h : EndsRuns f ends) {l : List ChanNo} (hn : l.Nodup) (s : State) :
    RunsEnded (l.filter (ends s)) s (l.foldl f s) := by
  induction l generalizing s with
  | nil =>
    refine ⟨(List.append_nil _).symm, fun n => ?_, fun _ _ _ h1 => ?_, fun _ => rfl, .refl s⟩
    · simp only [List.filter_nil, List.length_nil, Nat.sub_zero, List.foldl_nil]
    · cases h1
  | cons a l ih =>
    rw [List.nodup_cons] at hn
    have hne : ∀ j ∈ l, j ≠ a := fun j hj e => hn.1 (e ▸ hj)
    have hsame : l.filter (ends (f s a)) = l.filter (ends s) :=
      List.filter_congr fun j hj => (h.reads s _ j (h.frame s a) (h.other s (hne j hj))).1
    have r := ih hn.2 (f s a)
    rw [hsame] at r
    have hsteps : ∀ n, ((l.filter (ends s)).filter fun ch => onStep ((f s a).ch ch) n) =
        (l.filter (ends s)).filter fun ch => onStep (s.ch ch) n := fun n =>
      List.filter_congr fun j hj => by rw [h.other s (hne j (List.mem_of_mem_filter hj))]
    rw [List.foldl_cons]
    cases e : ends s a
    · obtain ⟨c, hc⟩ := h.goes s a e
      have hf : (a :: l).filter (ends s) = l.filter (ends s) := by rw [List.filter_cons, e]; rfl
      rw [hf]
      refine ⟨?_, ?_, ?_, ?_, .trans (h.frame s a) r.frame⟩
      · rw [r.queue, hc]; rfl
      · intro n
        rw [r.entries n, hsteps n, hc]; rfl
      · intro first rest v h1 h2 h3 h4 h5
        rw [r.begins first rest v h1 h2 (by rw [hc]; exact h3) (by rw [hc]; exact h4) (by rw [hc]; exact h5), hc]; rfl
      · intro h1
        rw [r.stays (by rw [hc]; exact h1), hc]; rfl
    · obtain ⟨sn, c, v, hs, hr⟩ := h.ended s a e
      have hf : (a :: l).filter (ends s) = a :: l.filter (ends s) := by rw [List.filter_cons, e]; rfl
      rw [hf]
      refine ⟨?_, ?_, ?_, ?_, .trans hr.frame r.frame⟩
      · rw [r.queue, hr.joined.queue, List.append_assoc]; rfl
      · intro n
        rw [r.entries n, hsteps n, List.filter_cons]
        by_cases hst : n = sn.step.toNat
        · subst hst
          have : onStep (s.ch a) sn.step.toNat = true := by unfold onStep; rw [hs]; simp
          rw [hr.runs, this, if_pos rfl, List.length_cons]
          simp only [Nat.sub_sub, Nat.add_comm]
        · have : onStep (s.ch a) n = false := by
            unfold onStep; rw [hs]; simpa using Ne.symm hst
          rw [hr.entries n hst, this]; rfl
      · intro first rest w h1 h2 h3 h4 h5
        obtain ⟨rfl, rfl⟩ := List.cons.inj h1
        have hv : (f s a).ch a = (l.foldl f (f s a)).ch a := (h.fold_other l _ hn.1).symm
        rw [← hv, hr.context] at h2
        obtain rfl : v = w := Option.some.inj h2
        have hb := hr.joined.begins h3 h4 h5
        rw [r.stays (.inr (.inl (by rw [hb]; exact nofun))), hb]
      · rintro (h1 | h1)
        · cases h1
        · have hst := hr.joined.stays h1
          rw [r.stays (.inr (by rw [hst]; exact h1)), hst]

end EndsRuns

theorem allChannels_nodup : allChannels.Nodup := by decide

/-- A verdict without a judged set reads nothing that an engine event changes. -/
theorem unjudged_congr {s t : State} (h : EngineFrame s t) (ch : ChanNo) (c : Channel) (sn : Snapshot) (o : VerdictCode)
    (n : Nat) : unjudged t ch c sn o n = unjudged s ch c sn o n := by
  have h1 : t.boardOpen = s.boardOpen := by rw [h.eq]
  have h2 : t.board = s.board := by rw [h.eq]
  have h3 : t.timebase = s.timebase := by rw [h.eq]
  unfold unjudged
  rw [h1, h2, h3]

/-! ### Expiries (R37, R51) -/

/-- An expiry that ends a run: it is due, and the run has its snapshot. -/
def expiryEnds (s : State) (ch : ChanNo) : Bool :=
  Channel.inFlight (s.ch ch) && (s.ch ch).deadline == some s.timebase && (s.ch ch).snapshot.isSome

/-- Without a snapshot there is no run to end. -/
theorem endRun_none {ch : ChanNo} {e : Ending} {s : State} (h : (s.ch ch).snapshot = none) : endRun ch e s = s := by
  unfold endRun
  rw [h]

theorem setCh_self (s : State) (ch : ChanNo) : s.setCh ch (s.ch ch) = s := by simp [State.setCh, State.ch]

/-- An expiry that ends no run does nothing. -/
theorem takeExpiry_idle {s : State} {ch : ChanNo} (h : expiryEnds s ch = false) : takeExpiry ch s = s := by
  unfold takeExpiry
  split
  · rename_i hd
    apply endRun_none
    unfold expiryEnds at h
    have hd' : (Channel.inFlight (s.ch ch) && (s.ch ch).deadline == some s.timebase) = true := hd
    rw [hd', Bool.true_and] at h
    simpa using h
  · rfl

/-- An expiry that ends a run (R51). -/
theorem takeExpiry_ends {s : State} {ch : ChanNo} {sn : Snapshot} (h : expiryEnds s ch = true)
    (hs : (s.ch ch).snapshot = some sn) :
    EndedUnjudged ch (s.ch ch) sn (if (s.ch ch).contactSeen = true then .timeout else .noContact) 0 s
      (takeExpiry ch s) := by
  unfold expiryEnds at h
  rw [Bool.and_eq_true] at h
  unfold takeExpiry
  rw [if_pos (show s.expiryDue ch = true from h.1)]
  exact endRun_plain _ hs

theorem takeExpiry_endsRuns : EndsRuns (fun s ch => takeExpiry ch s) expiryEnds where
  ended s ch h := by
    obtain ⟨sn, hs⟩ : ∃ sn, (s.ch ch).snapshot = some sn := by
      unfold expiryEnds at h
      rw [Bool.and_eq_true] at h
      exact Option.isSome_iff_exists.1 h.2
    exact ⟨sn, _, _, hs, takeExpiry_ends h hs⟩
  goes s ch h := ⟨s.ch ch, by rw [setCh_self]; exact takeExpiry_idle h⟩
  reads s t ch hf hc := by
    have ht : t.timebase = s.timebase := by rw [hf.eq]
    have he : expiryEnds t ch = expiryEnds s ch := by unfold expiryEnds; rw [hc, ht]
    refine ⟨he, ?_⟩
    cases e : expiryEnds s ch
    · rw [takeExpiry_idle e, takeExpiry_idle (he.trans e), hc]
    · obtain ⟨sn, hs⟩ : ∃ sn, (s.ch ch).snapshot = some sn := by
        have h := e
        unfold expiryEnds at h
        rw [Bool.and_eq_true] at h
        exact Option.isSome_iff_exists.1 h.2
      rw [(takeExpiry_ends e hs).context, (takeExpiry_ends (he.trans e) (hc ▸ hs)).context, hc]
      rw [unjudged_congr hf]

/-- Every due expiry is taken (R37, R51). -/
theorem takeDueExpiries_taken (s : State) : ExpiriesTaken s (takeDueExpiries s) where
  ended ch sn hm hs := by
    have he : expiryEnds s ch = true := (List.mem_filter.1 hm).2
    have hc := takeExpiry_endsRuns.fold_each allChannels_nodup s (mem_allChannels ch)
    refine hc.trans ?_
    have := (takeExpiry_ends he hs).context
    refine this.trans ?_
    simp only [unjudged]
    cases (s.ch ch).contactSeen <;> simp
  others ch hm := by
    have he : expiryEnds s ch = false := by
      rw [← Bool.not_eq_true]
      exact fun h => hm (List.mem_filter.2 ⟨mem_allChannels ch, h⟩)
    refine (takeExpiry_endsRuns.fold_each allChannels_nodup s (mem_allChannels ch)).trans ?_
    rw [takeExpiry_idle he]
  runs := takeExpiry_endsRuns.fold_runsEnded allChannels_nodup s

/-- Without a due expiry nothing is taken. -/
theorem takeDueExpiries_none {s : State} (h : dueRuns s = []) : takeDueExpiries s = s := by
  have : ∀ l : List ChanNo, (l.foldl (fun s ch => takeExpiry ch s) s) = s := by
    intro l
    induction l with
    | nil => rfl
    | cons a l ih =>
      have he : expiryEnds s a = false := by
        rw [← Bool.not_eq_true]
        intro h'
        have : a ∈ dueRuns s := List.mem_filter.2 ⟨mem_allChannels a, h'⟩
        rw [h] at this
        cases this
      rw [List.foldl_cons, takeExpiry_idle he, ih]
  exact this allChannels

/-- After the due expiries are taken none is due. -/
theorem dueRuns_none_of_taken {s t : State} (h : ExpiriesTaken s t) : dueRuns t = [] := by
  have ht : t.timebase = s.timebase := by rw [h.runs.frame.eq]
  refine List.filter_eq_nil_iff.2 fun ch _ hd => ?_
  by_cases hm : ch ∈ dueRuns s
  · have h2 := (List.mem_filter.1 hm).2
    rw [Bool.and_eq_true] at h2
    obtain ⟨sn, hs⟩ := Option.isSome_iff_exists.1 h2.2
    rw [h.ended ch sn hm hs] at hd
    simp [Channel.inFlight] at hd
  · rw [h.others ch hm, ht] at hd
    exact hm (List.mem_filter.2 ⟨mem_allChannels ch, hd⟩)

/-- The increment as an event of its own (R35, R37). -/
theorem countUp_eq (s : State) :
    countUp s = { takeDueExpiries s with timebase := s.timebase + 1, divCount := 0 } := by
  have h : (takeDueExpiries s).timebase = s.timebase := by rw [(takeDueExpiries_frame s).eq]
  unfold countUp increment
  rw [h]

/-- A cycle of CLK while the part is up (R35). -/
theorem clkCycle_up {s : State} (hr : s.resetN = true) : clkCycle s =
    if s.timebaseDiv.toNat ≤ s.divCount + 1 then takeDueExpiries (countUp s)
    else { takeDueExpiries s with divCount := s.divCount + 1 } := by
  have h1 : (takeDueExpiries s).timebaseDiv = s.timebaseDiv := by rw [(takeDueExpiries_frame s).eq]
  have h2 : (takeDueExpiries s).divCount = s.divCount := by rw [(takeDueExpiries_frame s).eq]
  unfold clkCycle countUp
  rw [if_pos hr]
  generalize takeDueExpiries s = u at *
  rw [← h1, ← h2]

/-- A cycle of CLK that does not reach TIMEBASE_DIV (R35). -/
theorem clkCycle_counts {s : State} (hr : s.resetN = true) (h : s.divCount + 1 < s.timebaseDiv.toNat) :
    clkCycle s = { takeDueExpiries s with divCount := s.divCount + 1 } := by
  rw [clkCycle_up hr, if_neg (by omega)]

/-- A cycle of CLK that increments the timebase (R35, R37). -/
theorem clkCycle_increments {s : State} (hr : s.resetN = true) (h : s.timebaseDiv.toNat ≤ s.divCount + 1) :
    clkCycle s = takeDueExpiries { takeDueExpiries s with timebase := s.timebase + 1, divCount := 0 } := by
  rw [clkCycle_up hr, if_pos h, countUp_eq]

/-! ### Trips and charge (R133, R135) -/

/-- A channel bound to a source has its run in flight with a snapshot of that source (R61, R133). -/
theorem boundTo_iff (c : Channel) (src : SrcNo) : Channel.boundTo c src = true ↔
    ∃ sn, c.snapshot = some sn ∧ Channel.inFlight c = true ∧ sn.host.source = src := by
  unfold Channel.boundTo
  cases h : c.snapshot <;> simp

/-- A trip ends the runs bound to its source. -/
theorem endGuarded_endsRuns (src : SrcNo) :
    EndsRuns (fun s ch => endGuarded src ch s) (fun s ch => Channel.boundTo (s.ch ch) src) where
  ended s ch h := by
    obtain ⟨sn, hs, _, _⟩ := (boundTo_iff _ _).1 h
    have he := endRun_plain .guard hs
    have hg : endGuarded src ch s = endRun ch (Ending.plain .guard) s := by unfold endGuarded; rw [if_pos h]
    rw [← hg] at he
    exact ⟨sn, _, _, hs, he⟩
  goes s ch h := ⟨s.ch ch, by rw [setCh_self]; unfold endGuarded; rw [h]; rfl⟩
  reads s t ch hf hc := by
    refine ⟨by rw [hc], ?_⟩
    unfold endGuarded
    rw [hc]
    split
    · rename_i hb
      obtain ⟨sn, hs, _, _⟩ := (boundTo_iff _ _).1 hb
      rw [(endRun_plain .guard hs).context, (endRun_plain .guard (hc ▸ hs)).context, hc, unjudged_congr hf]
    · exact hc

/-- The charge of a pair's current carries a channel's run over its budget. -/
def chargeOver (src : SrcNo) (i : Word) (s : State) (ch : ChanNo) : Bool :=
  s.metered src ch &&
    overBudget (addCharge (s.ch ch).charge (chargeOf i (s.src src).period)) (Channel.budget (s.ch ch))

/-- A channel that a pair is metered into is bound to the source. -/
theorem metered_boundTo {s : State} {src : SrcNo} {ch : ChanNo} (h : s.metered src ch = true) :
    Channel.boundTo (s.ch ch) src = true := by
  unfold State.metered at h
  rw [Bool.and_eq_true, Bool.and_eq_true, Bool.and_eq_true] at h
  exact h.1.1.1

/-- A word that reaches a source's tap lies in its window, which is therefore enabled (R125, R150). -/
theorem len_of_classify {s : State} {src : SrcNo} {a : Addr} (h : s.classify a = .monitor src) :
    (s.src src).len ≠ 0#16 := by
  intro h0
  have hc : Source.contains (s.src src) a = true := by
    unfold State.classify at h
    split at h
    · rename_i off _
      generalize areaOf off = area at h
      cases area <;> cases h
    · unfold State.windowClass at h
      split at h
      · cases h
      · split at h
        · rename_i found
          cases h
          exact List.find?_some (p := fun src => Source.contains (s.src src) a) found
        · cases h
  unfold Source.contains at hc
  rw [h0, decide_eq_true_eq] at hc
  exact absurd hc (Nat.not_lt_zero _)

/-- A pair's charge ends the runs it carries over their budgets. -/
theorem meterRun_endsRuns (src : SrcNo) (i : Word) :
    EndsRuns (fun s ch => meterRun src i ch s) (chargeOver src i) where
  ended s ch h := by
    unfold chargeOver at h
    rw [Bool.and_eq_true] at h
    obtain ⟨sn, hs, _, _⟩ := (boundTo_iff _ _).1 (metered_boundTo h.1)
    have he := endRun_plain (ch := ch) (sn := sn) (s := s.setCh ch { s.ch ch with
      charge := addCharge (s.ch ch).charge (chargeOf i (s.src src).period) }) .charge
      (by rw [setCh_ch_same]; exact hs)
    have hg : meterRun src i ch s = endRun ch (Ending.plain .charge) (s.setCh ch { s.ch ch with
      charge := addCharge (s.ch ch).charge (chargeOf i (s.src src).period) }) := by
      unfold meterRun
      rw [if_pos h.1]
      dsimp only
      rw [if_pos h.2]
    rw [← hg] at he
    exact ⟨sn, _, _, hs, RunEnded_of_setCh he⟩
  goes s ch h := by
    unfold meterRun
    split
    · rename_i hm
      unfold chargeOver at h
      rw [hm, Bool.true_and] at h
      dsimp only
      rw [if_neg (by rw [h]; exact Bool.noConfusion)]
      exact ⟨_, rfl⟩
    · exact ⟨s.ch ch, (setCh_self s ch).symm⟩
  reads s t ch hf hc := by
    have hsrc : t.src src = s.src src := src_congr (by rw [hf.eq]) src
    have hm : t.metered src ch = s.metered src ch := by unfold State.metered; rw [hc, hsrc]
    refine ⟨by unfold chargeOver; rw [hm, hc, hsrc], ?_⟩
    unfold meterRun
    rw [hm, hc, hsrc]
    split
    · rename_i hb
      obtain ⟨sn, hs, _, _⟩ := (boundTo_iff _ _).1 (metered_boundTo hb)
      dsimp only
      split
      · have e1 := (endRun_plain (ch := ch) (sn := sn) (s := s.setCh ch { s.ch ch with
          charge := addCharge (s.ch ch).charge (chargeOf i (s.src src).period) }) .charge
          (by rw [setCh_ch_same]; exact hs)).context
        have e2 := (endRun_plain (ch := ch) (sn := sn) (s := t.setCh ch { s.ch ch with
          charge := addCharge (s.ch ch).charge (chargeOf i (s.src src).period) }) .charge
          (by rw [setCh_ch_same]; exact hs)).context
        rw [setCh_ch_same] at e1 e2
        rw [e1, e2, unjudged_congr (.setCh s ch _), unjudged_congr (.setCh t ch _), unjudged_congr hf]
      · rw [setCh_ch_same, setCh_ch_same]
    · exact hc

/-- The runs that a trip ends (R133). -/
theorem endBoundRuns_ended (src : SrcNo) (s : State) :
    RunsEnded (allChannels.filter fun ch => Channel.boundTo (s.ch ch) src) s (endBoundRuns src s) :=
  (endGuarded_endsRuns src).fold_runsEnded allChannels_nodup s

/-- What a trip leaves of each channel (R133). -/
theorem endBoundRuns_ch (src : SrcNo) (s : State) (ch : ChanNo) :
    (endBoundRuns src s).ch ch = (endGuarded src ch s).ch ch :=
  (endGuarded_endsRuns src).fold_each allChannels_nodup s (mem_allChannels ch)

/-- The runs that a pair's charge ends (R135). -/
theorem meterPair_ended (src : SrcNo) (i : Word) (s : State) :
    RunsEnded (allChannels.filter (chargeOver src i s)) s (meterPair src i s) :=
  (meterRun_endsRuns src i).fold_runsEnded allChannels_nodup s

/-- What the metering of a pair leaves of each channel (R135). -/
theorem meterPair_ch (src : SrcNo) (i : Word) (s : State) (ch : ChanNo) :
    (meterPair src i s).ch ch = (meterRun src i ch s).ch ch :=
  (meterRun_endsRuns src i).fold_each allChannels_nodup s (mem_allChannels ch)

/-- A pair is metered into no channel where no run is bound to its source. -/
theorem meterPair_none {src : SrcNo} {i : Word} {s : State} (h : ∀ ch, Channel.boundTo (s.ch ch) src = false) :
    meterPair src i s = s := by
  have : ∀ l : List ChanNo, (l.foldl (fun s ch => meterRun src i ch s) s) = s := by
    intro l
    induction l with
    | nil => rfl
    | cons a l ih =>
      have hm : s.metered src a = false := by unfold State.metered; rw [h a]; rfl
      have : meterRun src i a s = s := by unfold meterRun; rw [hm]; rfl
      rw [List.foldl_cons, this, ih]
  exact this allChannels

end Sys2Proof.Machine
end

