-- ==== Sys2Proof/Laws/Words.lean ====
section
/-! SUPPORT. Laws of packed words: fields joined by or add up where they do not overlap. -/

namespace Sys2Proof.Machine

open Sys2Proof

/-- The number of a field that fits its word. -/
theorem field_toNat {low x : Nat} (h : 2 ^ low * x < 2 ^ 32) : (field low x).toNat = 2 ^ low * x := by
  have hx : x < 2 ^ 32 := lt_of_le_of_lt (Nat.le_mul_of_pos_left x (Nat.two_pow_pos low)) h
  unfold field
  rw [BitVec.toNat_shiftLeft, BitVec.toNat_ofNat, Nat.mod_eq_of_lt hx, Nat.shiftLeft_eq, Nat.mul_comm,
    Nat.mod_eq_of_lt h]

/-- A field above a word adds to it. -/
theorem or_field {w : Word} {low x : Nat} (hw : w.toNat < 2 ^ low) (h : 2 ^ low * x < 2 ^ 32) :
    (w ||| field low x).toNat = w.toNat + 2 ^ low * x := by
  rw [BitVec.toNat_or, field_toNat h, Nat.or_comm, Nat.mul_comm, ← Nat.shiftLeft_eq,
    ← Nat.shiftLeft_add_eq_or_of_lt hw]
  omega

/-- A one-bit field above a word adds to it. -/
theorem or_flagBit {w : Word} {low : Nat} {b : Bool} (hw : w.toNat < 2 ^ low) (h : low < 32) :
    (w ||| flagBit low b).toNat = w.toNat + 2 ^ low * b.toNat := by
  refine or_field hw ?_
  have : 2 ^ low < 2 ^ 32 := Nat.pow_lt_pow_right (by decide) h
  cases b <;> simp
  exact this

/-- A one-bit field on its own. -/
theorem flagBit_toNat {low : Nat} {b : Bool} (h : low < 32) : (flagBit low b).toNat = 2 ^ low * b.toNat := by
  refine field_toNat ?_
  have : 2 ^ low < 2 ^ 32 := Nat.pow_lt_pow_right (by decide) h
  cases b <;> simp
  exact this

/-- The number of a one-bit field's value. -/
theorem bool_toNat_le (b : Bool) : b.toNat ≤ 1 := by cases b <;> decide

/-- The number of two words joined. -/
theorem append_toNat {n m : Nat} (a : BitVec n) (b : BitVec m) : (a ++ b).toNat = b.toNat + 2 ^ m * a.toNat := by
  rw [BitVec.toNat_append, ← Nat.shiftLeft_add_eq_or_of_lt b.isLt, Nat.shiftLeft_eq]
  ring

end Sys2Proof.Machine
end

