-- ==== Sys2Proof/Laws/Kept.lean ====
section
/-! SUPPORT. What a step can do, said once: a property of states that every operation in the list `Kept` keeps is kept by
every command and every step. -/

namespace Sys2Proof.Machine

open Sys2Proof Sys2Proof.Safety

/-- A property that each of the part's operations keeps. The word operations are on full words; `sample` and `monitor` are
on aligned words that the tap's window claims. -/
structure Kept (P : State → Prop) : Prop where
  pending    : ∀ q s, P s → P { s with pending := q }
  reset      : ∀ s, P s → P (assertReset s)
  released   : ∀ straps s, P s → P { s with resetN := true, apBase := straps, divCount := 0 }
  counted    : ∀ s, P s → s.divCount + 1 < s.timebaseDiv.toNat → P { s with divCount := s.divCount + 1 }
  increment  : ∀ s, P s → P (increment s)
  expiry     : ∀ ch s, P s → P (takeExpiry ch s)
  emit       : ∀ p s, P s → P (emit p s)
  misuse     : ∀ s, P s → P (raiseMisuse s)
  edit       : ∀ n k v s, n < 8191 → k < 7 → P s → P (editEntry n k v s)
  commit     : ∀ n v s, n < 8191 → P s → P (commitEntry n v s)
  config     : ∀ w v s, P s → P (takeConfigWord w v s)
  channel    : ∀ ch v s, P s → P (channelCommand ch v s)
  device     : ∀ v s, P s → P (takeDevCmd v s)
  consumer   : ∀ v s, P s → P (takeConsumer v s)
  temp       : ∀ v s, P s → P (takeTemp v s)
  inspect    : ∀ v s, P s → P (takeInspect v s)
  sample     : ∀ ch w s, s.classify (s.tap ch).cursor = .sample ch → P s → P (takeSample ch w s)
  stray      : ∀ ch a s, s.classify a = .sample ch → a.toNat % 4 = 0 → P s → P (takeSampleStray ch a s)
  voltage    : ∀ src v s, s.classify (s.src src).cursor = .monitor src → P s → P (takeVoltage src v s)
  current    : ∀ src v i s, s.classify ((s.src src).cursor + 4) = .monitor src → (s.src src).half = some v → P s →
    P (takeCurrent src v i s)
  monStray   : ∀ src a s, s.classify a = .monitor src → a.toNat % 4 = 0 → P s → P (takeMonitorStray src a s)
  charge     : ∀ src i ch s, P s → P (meterRun src i ch s)
  liveRead   : ∀ o s, s.readRoom = true → P s → P (liveReadArrives o s)
  heldRead   : ∀ o s, s.readRoom = true → P s → P (heldReadArrives o s)
  forwarded  : ∀ o s, s.readRoom = true → P s → P (forwardedReadArrives o s)
  readAddr   : ∀ s, P s → P (takeReadAddr s)
  readBeat   : ∀ id d r l s, P s → P (returnReadBeat id d r l s)
  partBeats  : ∀ e s, P s → P (returnPartBeats e s)
  liveWrite  : ∀ o s, s.writes.length < 32 → P s → P (addWrite o (.live false) s)
  liveBeat   : ∀ e m s, P s → P (liveBeatArrives e m s)
  response   : ∀ id r who s, P s → P (returnResponse id r who s)
  grantFwd   : ∀ o s, s.writes.length < 32 → P s → P (grantForwarded o s)
  grantWtr   : ∀ f s, s.writer.flight = some f → P s → P (grantWriter f s)
  beat       : ∀ f s, (∀ e, (f e).arrived = e.arrived + 1) → P s → P { s with writes := updateOpen f s.writes }
  dataDone   : ∀ s, P s → P (forwardedDataDone s)
  begin      : ∀ s, P s → P (beginWrite s)
  issue      : ∀ s, Writer.awaits s.writer .record = true → s.resetPending = false → P s → P (issueProducerWord s)
  publish    : ∀ s, Writer.awaits s.writer .producerWord = true → s.resetPending = false → P s → P (publish s)
  fault      : ∀ k e s, Writer.awaits s.writer k = true → s.resetPending = false → P s → P (writerFault k e s)
  completed  : ∀ s, P s → P (completePlanReset s)

namespace Kept

variable {P : State → Prop}

/-- A command that acts only while the part is up. -/
theorem whileUp (f : State → State) (s : State) (h : P s) (hf : P (f s)) : P (whileUp f s) := by
  unfold Machine.whileUp
  split
  · exact hf
  · exact h

/-- A property kept at each channel is kept by a fold over channels. -/
theorem fold {f : State → ChanNo → State} (hf : ∀ ch s, P s → P (f s ch)) (l : List ChanNo) (s : State) (h : P s) :
    P (l.foldl f s) := by
  induction l generalizing s with
  | nil => exact h
  | cons x l ih => exact ih _ (hf x s h)

/-- The due expiries. -/
theorem dueExpiries (K : Kept P) (s : State) (h : P s) : P (takeDueExpiries s) :=
  fold (fun ch s h => K.expiry ch s h) _ s h

/-- An increment that takes what is due at the old count first. -/
theorem countUp (K : Kept P) (s : State) (h : P s) : P (countUp s) := K.increment _ (K.dueExpiries s h)

/-- A full word of the step area. -/
theorem stepWord (K : Kept P) {offset : Nat} (ho : offset < 0x40000) (v : Word) (s : State) (h : P s) :
    P (takeStepWord offset v s) := by
  unfold takeStepWord
  dsimp only
  split
  · exact K.misuse s h
  · split
    · exact K.commit _ v s (by omega) h
    · exact K.edit _ _ v s (by omega) (by omega) h

/-- A full word of the command area. -/
theorem command (K : Kept P) (w : CommandWord) (v : Word) (s : State) (h : P s) : P (takeCommandWord w v s) := by
  cases w
  · exact K.channel _ v s h
  · exact K.device v s h
  · exact K.consumer v s h
  · exact K.temp v s h
  · exact K.inspect v s h

/-- A word of the aperture with its strobes. -/
theorem apertureWord (K : Kept P) (strb : BitVec 4) (f : State → State) (s : State) (h : P s) (hf : P (f s)) :
    P (apertureWord strb f s) := by
  unfold Machine.apertureWord
  split
  · exact h
  · split
    · exact hf
    · exact K.misuse s h

/-- The aperture offset of an address of the step area is below the step area's end. -/
theorem step_offset {s : State} {a : Addr} {o : Nat} (h : s.classify a = .step o) : o < 0x40000 := by
  unfold State.classify at h
  split at h
  · rename_i off _
    cases e : areaOf off <;> rw [e] at h <;> cases h
    unfold areaOf at e
    split at e
    · assumption
    · split at e <;> [cases e; (split at e <;> [cases e; (split at e <;> cases e)])]
  · unfold State.windowClass at h
    split at h
    · cases h
    · split at h <;> cases h

/-- A word of a write beat. -/
theorem handWord (K : Kept P) {a : Addr} (ha : a.toNat % 4 = 0) (strb : BitVec 4) (v : Word) (s : State) (h : P s) :
    P (handWord a strb v s) := by
  unfold Machine.handWord
  split
  · exact h
  · rename_i o ho
    exact K.apertureWord _ _ s h (K.stepWord (step_offset ho) v s h)
  · refine K.apertureWord _ _ s h ?_
    unfold takeConfigOffset
    split
    · exact K.config _ v s h
    · exact h
  · refine K.apertureWord _ _ s h ?_
    unfold takeCommandOffset
    split
    · exact K.command _ v s h
    · exact h
  · exact h
  · rename_i ch hc
    unfold takeSampleWord
    split
    · exact h
    · split
      · rename_i hw
        rw [Bool.and_eq_true, beq_iff_eq] at hw
        rw [hw.2] at hc
        exact K.sample _ _ s hc h
      · exact K.stray _ _ s hc ha h
  · rename_i src hc
    unfold takeMonitorWord
    split
    · exact h
    · have hcl : ∀ k, Source.classify (s.src src) a strb = k →
          P (match k with
             | .voltage => takeVoltage src v s
             | .pair x => takeCurrent src x v s
             | .stray => takeMonitorStray src a s) := by
        intro k hk
        unfold Source.classify at hk
        split at hk
        · split at hk
          · split at hk
            · rename_i e
              rw [e] at hc
              subst hk
              exact K.voltage _ _ s hc h
            · subst hk
              exact K.monStray _ _ s hc ha h
          · rename_i x hx
            split at hk
            · rename_i e
              rw [e] at hc
              subst hk
              exact K.current _ _ _ s hc hx h
            · subst hk
              exact K.monStray _ _ s hc ha h
        · subst hk
          exact K.monStray _ _ s hc ha h
      exact hcl _ rfl
  · exact h

/-- The two words of a beat. -/
theorem handBeat (K : Kept P) {a : Addr} (ha : a.toNat % 8 = 0) (strb : BitVec 8) (d : Beat) (s : State) (h : P s) :
    P (handBeat a strb d s) := by
  have h4 : (a + 4).toNat % 4 = 0 := by
    rw [BitVec.toNat_add]
    have : (4 : BitVec 32).toNat = 4 := rfl
    omega
  exact K.handWord h4 _ _ _ (K.handWord (by omega) _ _ s h)

/-- An aligned doubleword address. -/
theorem dwordOf_aligned (a : Addr) : (dwordOf a).toNat % 8 = 0 := by
  have h : (dwordOf a) &&& 7#32 = 0#32 := by
    unfold dwordOf
    rw [BitVec.and_assoc]
    simp
  have := congrArg BitVec.toNat h
  rw [BitVec.toNat_and] at this
  have h7 : (7#32).toNat = 2 ^ 3 - 1 := rfl
  rw [h7, Nat.and_two_pow_sub_one_eq_mod] at this
  exact this

/-- An aligned word address. -/
theorem wordOf_aligned (a : Addr) : (wordOf a).toNat % 4 = 0 := by
  have h : (wordOf a) &&& 3#32 = 0#32 := by
    unfold wordOf
    rw [BitVec.and_assoc]
    simp
  have := congrArg BitVec.toNat h
  rw [BitVec.toNat_and] at this
  have h3 : (3#32).toNat = 2 ^ 2 - 1 := rfl
  rw [h3, Nat.and_two_pow_sub_one_eq_mod] at this
  exact this

/-- The operation codes and arguments of the command words. -/
theorem opOf_commandValue (op : BitVec 8) (arg : BitVec 24) :
    opOf (commandValue op arg) = op ∧ argOf (commandValue op arg) = arg := by
  have h : (commandValue op arg).toNat = arg.toNat + 2 ^ 24 * op.toNat := append_toNat op arg
  have ho := op.isLt
  have ha := arg.isLt
  constructor <;> apply BitVec.eq_of_toNat_eq
  · unfold opOf
    rw [BitVec.extractLsb'_toNat, h, Nat.shiftRight_eq_div_pow]
    omega
  · unfold argOf
    rw [BitVec.extractLsb'_toNat, h, Nat.shiftRight_eq_div_pow]
    omega

/-- A forwarded configuration word. -/
theorem configWrite (K : Kept P) (w : ConfigWord) (v : Word) (s : State) (h : P s) :
    P (configWrite w v (takeConfigWord w v) s) :=
  whileUp _ _ h (K.config w v _ (K.emit _ s h))

/-- A forwarded RING_CTRL word. -/
theorem ringCtrl (K : Kept P) (high : BitVec 31) (b : Bool) (s : State) (h : P s) :
    P (Machine.configWrite .ringCtrl (ringCtrlValue high b) (if b then ringEnable else ringDisable) s) := by
  refine whileUp _ _ h ?_
  have hv : takeRingCtrl (ringCtrlValue high b) = if b then ringEnable else ringDisable := by
    funext u
    have hb : (ringCtrlValue high b).getLsbD 0 = b := by
      unfold ringCtrlValue
      rw [BitVec.getLsbD, append_toNat, Nat.testBit_zero]
      cases b <;> simp
    unfold takeRingCtrl
    rw [hb]
    cases b <;> rfl
  rw [← hv]
  exact K.config .ringCtrl _ _ (K.emit _ s h)

/-- A forwarded channel command. -/
theorem chCmd (K : Kept P) (ch : ChanNo) (op : BitVec 8) (arg : BitVec 24) (take : State → State) (s : State)
    (ht : channelCommand ch (commandValue op arg) = take) (h : P s) :
    P (commandWrite (.chCmd ch) (commandValue op arg) take s) := by
  subst ht
  exact whileUp _ _ h (K.channel ch _ _ (K.emit _ s h))

/-- A forwarded device command. -/
theorem devCmd (K : Kept P) (op : BitVec 8) (arg : BitVec 24) (take : State → State) (s : State)
    (ht : takeDevCmd (commandValue op arg) = take) (h : P s) :
    P (commandWrite .devCmd (commandValue op arg) take s) := by
  subst ht
  exact whileUp _ _ h (K.device _ _ (K.emit _ s h))

/-- Channel commands by code. -/
theorem channelCommand_op (ch : ChanNo) (op : BitVec 8) (arg : BitVec 24) :
    channelCommand ch (commandValue op arg) = fun s =>
      match op.toNat with
      | 1 => channelArm ch arg s
      | 2 => channelAbort ch s
      | _ => setResult ch .badArg s := by
  funext s
  unfold channelCommand
  simp only [(opOf_commandValue op arg).1, (opOf_commandValue op arg).2] <;> rfl

/-- Device commands by code. -/
theorem takeDevCmd_op (op : BitVec 8) (arg : BitVec 24) :
    takeDevCmd (commandValue op arg) = fun s =>
      match op.toNat with
      | 1 => devPlanReset s
      | 2 => devBoardOpen arg s
      | 3 => devBoardClose s
      | 4 => devLearnClear arg s
      | 5 => devGuardClear arg s
      | _ => devUnknown s := by
  funext s
  unfold takeDevCmd
  simp only [(opOf_commandValue op arg).1, (opOf_commandValue op arg).2] <;> rfl

/-- A data beat of a forwarded burst. -/
theorem forwardBeat (K : Kept P) (e : WriteEntry) (d : Beat) (strb : BitVec 8) (s : State) (h : P s) :
    P (forwardBeat e d strb s) := by
  unfold Machine.forwardBeat
  dsimp only
  refine K.handBeat (dwordOf_aligned _) _ _ _ ?_
  have h1 : P (Machine.emit (.downWriteBeat d strb (WriteEntry.nextIsLast e))
      { s with writes := updateOpen WriteEntry.beatArrived s.writes }) := K.emit _ _ (K.beat _ s (fun _ => rfl) h)
  split
  · exact K.dataDone _ h1
  · exact h1

/-- The grant of the downstream write address channel. -/
theorem grant (K : Kept P) (o : Option Offer) (before : Bool) (s : State) (h : P s) :
    P (completeGrant o before s) := by
  unfold completeGrant
  dsimp only
  split
  · rename_i hx
    refine K.grantFwd _ s ?_ h
    rename_i o' _ _
    have ha : ∀ a b l, arbitrate a b l = some .forwarded → a = true := by
      intro a b l h
      cases a
      · cases b <;> cases h
      · rfl
    have := ha _ _ _ hx
    unfold State.forwardedWaits State.writeRoom at this
    rw [Bool.and_eq_true, decide_eq_true_eq] at this
    exact this.2
  · rename_i hf _
    exact K.grantWtr _ s hf h
  · exact h

/-- Every command keeps what each operation keeps. -/
theorem exec (K : Kept P) {c : Instr} {s t : State} (h : P s) (he : exec c s = .next t) : P t := by
  have key : ∃ u, Machine.exec c s = .next u ∧ P u := by
    cases c
    case hardwareReset =>
      exact ⟨_, rfl, K.reset s h⟩
    case resetNRelease =>
      refine ⟨_, rfl, ?_⟩
      unfold releaseReset
      split
      · exact h
      · exact K.released _ s h
    case timebaseIncrement =>
      exact ⟨_, rfl, whileUp _ _ h (K.countUp s h)⟩
    case deadlineExpiry =>
      exact ⟨_, rfl, whileUp _ _ h (K.expiry _ s h)⟩
    case stepWordWrite n k v =>
      exact ⟨_, rfl, whileUp _ _ h (K.edit n.val k.val _ _ n.isLt k.isLt (K.emit _ s h))⟩
    case commit n v =>
      exact ⟨_, rfl, whileUp _ _ h (K.commit n.val _ _ n.isLt (K.emit _ s h))⟩
    case entry8191Write =>
      exact ⟨_, rfl, whileUp _ _ h (K.misuse _ (K.emit _ s h))⟩
    case partialStrobeWord =>
      refine ⟨_, rfl, whileUp _ _ h ?_⟩
      split
      · exact K.misuse _ (K.emit _ s h)
      · exact h
    case unassignedApertureWrite =>
      refine ⟨_, rfl, whileUp _ _ h ?_⟩
      split
      · exact K.emit _ s h
      · exact h
    case timebaseDivWrite =>
      exact ⟨_, rfl, K.configWrite .timebaseDiv _ s h⟩
    case learnTargetWrite =>
      exact ⟨_, rfl, K.configWrite .learnTarget _ s h⟩
    case noticeEnableWrite =>
      exact ⟨_, rfl, K.configWrite .noticeEnable _ s h⟩
    case ringLevelWrite =>
      exact ⟨_, rfl, K.configWrite .ringLevel _ s h⟩
    case ringBaseWrite =>
      exact ⟨_, rfl, K.configWrite .ringBase _ s h⟩
    case ringSizeWrite =>
      exact ⟨_, rfl, K.configWrite .ringSize _ s h⟩
    case ringProdAddrWrite =>
      exact ⟨_, rfl, K.configWrite .ringProdAddr _ s h⟩
    case bandTWrite =>
      exact ⟨_, rfl, K.configWrite (.bandT _) _ s h⟩
    case bandHystWrite =>
      exact ⟨_, rfl, K.configWrite .bandHyst _ s h⟩
    case rangeShiftWrite =>
      exact ⟨_, rfl, K.configWrite (.rangeShift _) _ s h⟩
    case compWrite =>
      exact ⟨_, rfl, K.configWrite (.comp _ _) _ s h⟩
    case sampleBaseWrite =>
      exact ⟨_, rfl, K.configWrite (.sampleBase _) _ s h⟩
    case sampleLenWrite =>
      exact ⟨_, rfl, K.configWrite (.sampleLen _) _ s h⟩
    case monBaseWrite =>
      exact ⟨_, rfl, K.configWrite (.monBase _) _ s h⟩
    case monLenWrite =>
      exact ⟨_, rfl, K.configWrite (.monLen _) _ s h⟩
    case iLimitWrite =>
      exact ⟨_, rfl, K.configWrite (.iLimit _) _ s h⟩
    case vLimitWrite =>
      exact ⟨_, rfl, K.configWrite (.vLimit _) _ s h⟩
    case pLimitWrite =>
      exact ⟨_, rfl, K.configWrite (.pLimit _) _ s h⟩
    case periodWrite =>
      exact ⟨_, rfl, K.configWrite (.period _) _ s h⟩
    case guardCtrlWrite =>
      exact ⟨_, rfl, K.configWrite (.guardCtrl _) _ s h⟩
    case moveBaseWrite =>
      exact ⟨_, rfl, K.configWrite .moveBase _ s h⟩
    case moveLenWrite =>
      exact ⟨_, rfl, K.configWrite .moveLen _ s h⟩
    case motionIdWrite =>
      exact ⟨_, rfl, K.configWrite .motionId _ s h⟩
    case motionIdMaskWrite =>
      exact ⟨_, rfl, K.configWrite .motionIdMask _ s h⟩
    case holdPatternWrite =>
      exact ⟨_, rfl, K.configWrite .holdPattern _ s h⟩
    case ringEnable =>
      exact ⟨_, rfl, K.ringCtrl _ true s h⟩
    case ringDisable =>
      exact ⟨_, rfl, K.ringCtrl _ false s h⟩
    case arm =>
      exact ⟨_, rfl, K.chCmd _ 1 _ _ s (channelCommand_op _ _ _) h⟩
    case abort =>
      exact ⟨_, rfl, K.chCmd _ 2 _ _ s (channelCommand_op _ _ _) h⟩
    case chCmdUnknown ch op arg =>
      refine ⟨_, rfl, ?_⟩
      split
      · rename_i hu
        refine K.chCmd ch op arg _ s ?_ h
        rw [channelCommand_op]
        funext u
        unfold unknownChOp at hu
        rw [Bool.and_eq_true, bne_iff_ne, bne_iff_ne] at hu
        split
        · rename_i e
          exact absurd (BitVec.eq_of_toNat_eq e) hu.1
        · rename_i e
          exact absurd (BitVec.eq_of_toNat_eq e) hu.2
        · rfl
      · exact h
    case planReset =>
      exact ⟨_, rfl, K.devCmd 1 _ _ s (takeDevCmd_op _ _) h⟩
    case boardOpen =>
      exact ⟨_, rfl, K.devCmd 2 _ _ s (takeDevCmd_op _ _) h⟩
    case boardClose =>
      exact ⟨_, rfl, K.devCmd 3 _ _ s (takeDevCmd_op _ _) h⟩
    case learnClear =>
      exact ⟨_, rfl, K.devCmd 4 _ _ s (takeDevCmd_op _ _) h⟩
    case guardClear =>
      exact ⟨_, rfl, K.devCmd 5 _ _ s (takeDevCmd_op _ _) h⟩
    case devCmdUnknown op arg =>
      refine ⟨_, rfl, ?_⟩
      split
      · rename_i hu
        refine K.devCmd op arg _ s ?_ h
        rw [takeDevCmd_op]
        funext u
        unfold unknownDevOp at hu
        rw [Bool.or_eq_true, beq_iff_eq, decide_eq_true_eq] at hu
        have hn : op.toNat = 0 ∨ 6 ≤ op.toNat := hu.imp (fun e => by rw [e]; rfl) id
        split <;> first | omega | rfl
      · exact h
    case planResetCompletion =>
      refine ⟨_, rfl, whileUp _ _ h ?_⟩
      split
      · exact K.completed s h
      · exact h
    case consumerWrite =>
      exact ⟨_, rfl, whileUp _ _ h (K.consumer _ _ (K.emit _ s h))⟩
    case tempWrite =>
      exact ⟨_, rfl, whileUp _ _ h (K.temp _ _ (K.emit _ s h))⟩
    case inspectWrite =>
      exact ⟨_, rfl, whileUp _ _ h (K.inspect _ _ (K.emit _ s h))⟩
    case liveWrite =>
      refine ⟨_, rfl, whileUp _ _ h ?_⟩
      unfold liveWriteEvent
      split
      · split
        · rename_i hx
          rw [Bool.and_eq_true] at hx
          exact K.liveWrite _ s (of_decide_eq_true hx.2) h
        · exact h
      · split
        · split
          · exact K.liveBeat _ _ s h
          · exact h
        · exact h
    case liveWriteResponse =>
      refine ⟨_, rfl, whileUp _ _ h ?_⟩
      split
      · split
        · exact K.response _ _ _ s h
        · exact h
      · exact h
    case liveRead =>
      refine ⟨_, rfl, whileUp _ _ h ?_⟩
      split
      · rename_i hx
        exact K.liveRead _ s hx.2 h
      · exact h
    case heldRead =>
      refine ⟨_, rfl, whileUp _ _ h ?_⟩
      split
      · rename_i hx
        exact K.heldRead _ s hx.2 h
      · exact h
    case forwardedReadArrival =>
      refine ⟨_, rfl, whileUp _ _ h ?_⟩
      split
      · rename_i hx
        exact K.forwarded _ s hx.2 h
      · exact h
    case deviceFlagsRead =>
      refine ⟨_, rfl, whileUp _ _ h ?_⟩
      split
      · rename_i hx
        exact K.liveRead _ s hx.2.2 h
      · exact h
    case forwardedRead =>
      exact ⟨_, rfl, whileUp _ _ h (K.readAddr s h)⟩
    case readDataReturn =>
      refine ⟨_, rfl, whileUp _ _ h ?_⟩
      split
      · exact K.readBeat _ _ _ _ s h
      · exact h
    case partReadBeatsReturn =>
      refine ⟨_, rfl, whileUp _ _ h ?_⟩
      split
      · split
        · exact K.partBeats _ s h
        · exact h
      · exact h
    case forwardedWriteResponse =>
      refine ⟨_, rfl, whileUp _ _ h ?_⟩
      split
      · exact K.response _ _ _ s h
      · exact h
    case downstreamWriteGrant =>
      exact ⟨_, rfl, whileUp _ _ h (K.grant _ _ s h)⟩
    case forwardedWriteBeat =>
      refine ⟨_, rfl, whileUp _ _ h ?_⟩
      split
      · split
        · exact h
        · exact K.forwardBeat _ _ _ s h
      · exact h
    case inSequenceSample ch v =>
      refine ⟨_, rfl, whileUp _ _ h ?_⟩
      dsimp only
      split
      · rename_i hc
        exact K.sample ch v _ hc (K.emit _ s h)
      · exact h
    case sampleStray ch a m v =>
      refine ⟨_, rfl, whileUp _ _ h ?_⟩
      split
      · rename_i hc
        unfold State.isSampleStray at hc
        rw [Bool.and_eq_true, Bool.and_eq_true, Bool.and_eq_true, beq_iff_eq, beq_iff_eq] at hc
        have ha : a.toNat % 4 = 0 := by rw [← hc.1.1.2]; exact wordOf_aligned a
        exact K.stray ch a _ hc.1.1.1 ha (K.emit _ s h)
      · exact h
    case voltageTaken src v =>
      refine ⟨_, rfl, whileUp _ _ h ?_⟩
      dsimp only
      split
      · rename_i hc
        exact K.voltage src v _ hc.1 (K.emit _ s h)
      · exact h
    case pairArrival src v =>
      refine ⟨_, rfl, whileUp _ _ h ?_⟩
      split
      · rename_i x hx
        dsimp only
        split
        · rename_i hc
          exact K.current src x v _ hc hx (K.emit _ s h)
        · exact h
      · exact h
    case monitorStray src a m v =>
      refine ⟨_, rfl, whileUp _ _ h ?_⟩
      split
      · rename_i hc
        unfold State.isMonitorStray at hc
        rw [Bool.and_eq_true, Bool.and_eq_true, Bool.and_eq_true, beq_iff_eq, beq_iff_eq] at hc
        have ha : a.toNat % 4 = 0 := by rw [← hc.1.1.2]; exact wordOf_aligned a
        exact K.monStray src a _ hc.1.1.1 ha (K.emit _ s h)
      · exact h
    case chargeExcess =>
      refine ⟨_, rfl, whileUp _ _ h ?_⟩
      split
      · exact K.charge _ _ _ s h
      · exact h
    case recordWriteBegin =>
      exact ⟨_, rfl, whileUp _ _ h (K.begin s h)⟩
    case recordWriteOkay =>
      refine ⟨_, rfl, whileUp _ _ h ?_⟩
      split
      · rename_i hx
        unfold recordOkay
        split
        · exact K.completed s h
        · rename_i hp
          exact K.issue s hx.2 (Bool.eq_false_iff.2 hp) h
      · exact h
    case publication =>
      refine ⟨_, rfl, whileUp _ _ h ?_⟩
      split
      · rename_i hx
        unfold producerOkay
        split
        · exact K.completed s h
        · rename_i hp
          exact K.publish s hx.2 (Bool.eq_false_iff.2 hp) h
      · exact h
    case writeErrorResponse =>
      refine ⟨_, rfl, whileUp _ _ h ?_⟩
      have hw : ∀ k e, Writer.awaits s.writer k = true → P (writeError k e s) := by
        intro k e hk
        unfold writeError
        split
        · exact K.completed s h
        · rename_i hp
          exact K.fault k e s hk (Bool.eq_false_iff.2 hp) h
      split
      · rename_i hx
        exact hw _ _ hx.2
      · split
        · rename_i hx
          exact hw _ _ hx.2
        · exact h
  obtain ⟨u, hu, hp⟩ := key
  rw [hu] at he
  cases he
  exact hp

/-- Every step keeps what each operation keeps. -/
theorem step (K : Kept P) {s t : State} (h : P s) (he : step s = .next t) : P t := by
  unfold Machine.step at he
  split at he
  · cases he
    unfold clkCycle
    split
    · have hd := K.dueExpiries s h
      dsimp only
      split
      · exact K.dueExpiries _ (K.increment _ hd)
      · exact K.counted _ hd (by omega)
    · exact h
  · rename_i c rest _
    exact K.exec (K.pending rest s h) he

end Kept

end Sys2Proof.Machine
end

