-- ==== Sys2Proof/Laws/Path.lean ====
section
/-! SUPPORT. Laws of the outstanding lists: the oldest entry of an ID, the oldest ready entry of the part, the waiting and
the open entry, and the transfers of beats. -/

namespace Sys2Proof.Machine

open Sys2Proof

/-! ### Lists split at an entry -/

/-- The first entry with a property is found behind entries without it. -/
theorem find_split {α : Type} {p : α → Bool} {pre post : List α} {e : α} (he : p e = true)
    (hn : ∀ d ∈ pre, p d = false) : (pre ++ e :: post).find? p = some e := by
  rw [List.find?_append, List.find?_eq_none.2 fun x hx => by rw [hn x hx]; exact Bool.noConfusion]
  simp [he]

/-- Erasing the first entry with a property leaves the others. -/
theorem erase_split {α : Type} {p : α → Bool} {pre post : List α} {e : α} (he : p e = true)
    (hn : ∀ d ∈ pre, p d = false) : (pre ++ e :: post).eraseP p = pre ++ post := by
  rw [List.eraseP_append_right _ fun x hx => by rw [hn x hx]; exact Bool.noConfusion]
  simp [he]

/-- A list where some entry has a property splits at the first such entry. -/
theorem split_of_find {α : Type} {p : α → Bool} {l : List α} {e : α} (h : l.find? p = some e) :
    p e = true ∧ ∃ pre post, l = pre ++ e :: post ∧ ∀ d ∈ pre, p d = false := by
  induction l with
  | nil => cases h
  | cons a l ih =>
    rw [List.find?_cons] at h
    cases ha : p a
    · rw [ha] at h
      obtain ⟨h1, pre, post, h2, h3⟩ := ih h
      refine ⟨h1, a :: pre, post, by rw [h2]; rfl, fun d hd => ?_⟩
      rcases List.mem_cons.1 hd with rfl | hd
      · exact ha
      · exact h3 d hd
    · rw [ha] at h
      cases h
      exact ⟨ha, [], l, rfl, nofun⟩

/-! ### Reads -/

/-- The oldest entry of an ID. -/
theorem oldestRead_split {pre post : List ReadEntry} {e : ReadEntry} (hn : ∀ d ∈ pre, d.id ≠ e.id) :
    oldestRead e.id (pre ++ e :: post) = some e :=
  find_split (by simp) fun d hd => by simpa using hn d hd

/-- The oldest entry of an ID leaves the list. -/
theorem removeRead_split {pre post : List ReadEntry} {e : ReadEntry} (hn : ∀ d ∈ pre, d.id ≠ e.id) :
    removeRead e.id (pre ++ e :: post) = pre ++ post :=
  erase_split (by simp) fun d hd => by simpa using hn d hd

/-- Memory's beat of an ID counts exactly where the oldest entry of the ID is a forwarded one that memory has (R157). -/
theorem memoryReadCounts_iff (s : State) (id : BusId) : s.memoryReadCounts id = true ↔
    ∃ pre e post, s.reads = pre ++ e :: post ∧ e.id = id ∧ e.kind = .forwarded true ∧ ∀ d ∈ pre, d.id ≠ id := by
  constructor
  · intro h
    unfold State.memoryReadCounts oldestRead at h
    split at h
    · rename_i e he
      obtain ⟨h1, pre, post, h2, h3⟩ := split_of_find he
      exact ⟨pre, e, post, h2, by simpa using h1, by simpa using h, fun d hd => by simpa using h3 d hd⟩
    · cases h
  · rintro ⟨pre, e, post, h1, rfl, h2, h3⟩
    unfold State.memoryReadCounts
    rw [h1, oldestRead_split h3]
    simp [h2]

/-- An entry that the part answers is a LIVE or HELD one. -/
theorem byPart_iff (e : ReadEntry) : ReadEntry.byPart e = true ↔ ∀ taken, e.kind ≠ .forwarded taken := by
  unfold ReadEntry.byPart
  cases e.kind <;> simp

/-- The oldest ready entry of the part, behind entries that are not ready. -/
theorem readyRead_split {older : List BusId} {pre post : List ReadEntry} {e : ReadEntry}
    (he : ReadEntry.byPart e = true) (ho : e.id ∉ older) (hid : ∀ d ∈ pre, d.id ≠ e.id)
    (hn : ∀ p q d, pre = p ++ d :: q → ReadEntry.byPart d = true → d.id ∈ older ∨ ∃ b ∈ p, b.id = d.id) :
    readyRead older (pre ++ e :: post) = some e := by
  induction pre generalizing older with
  | nil =>
    rw [List.nil_append, readyRead, if_pos]
    simp [he, ho]
  | cons a l ih =>
    rw [List.cons_append, readyRead, if_neg]
    · refine ih ?_ (fun d hd => hid d (by simp [hd])) fun p q d h1 h2 => ?_
      · simp only [List.mem_cons, not_or]
        exact ⟨fun h => hid a (by simp) h.symm, ho⟩
      · rcases hn (a :: p) q d (by rw [h1]; rfl) h2 with h | ⟨b, hb, hbi⟩
        · exact .inl (by simp [h])
        · rcases List.mem_cons.1 hb with rfl | hb
          · exact .inl (by simp [hbi])
          · exact .inr ⟨b, hb, hbi⟩
    · rw [Bool.and_eq_true]
      rintro ⟨h1, h2⟩
      rcases hn [] l a rfl h1 with h | ⟨b, hb, _⟩
      · simp [h] at h2
      · cases hb

/-- An entry of the part is ready where no older entry has its ID, and only there (R157, R158). -/
theorem readyRead_isSome (older : List BusId) (l : List ReadEntry) : (readyRead older l).isSome = true ↔
    ∃ pre e post, l = pre ++ e :: post ∧ ReadEntry.byPart e = true ∧ e.id ∉ older ∧ ∀ d ∈ pre, d.id ≠ e.id := by
  induction l generalizing older with
  | nil => simp [readyRead]
  | cons a l ih =>
    rw [readyRead]
    split
    · rename_i h
      rw [Bool.and_eq_true] at h
      exact ⟨fun _ => ⟨[], a, l, rfl, h.1, by simpa using h.2, nofun⟩, fun _ => rfl⟩
    · rename_i h
      rw [ih]
      constructor
      · rintro ⟨pre, e, post, h1, h2, h3, h4⟩
        rw [List.mem_cons, not_or] at h3
        refine ⟨a :: pre, e, post, by rw [h1]; rfl, h2, h3.2, fun d hd => ?_⟩
        rcases List.mem_cons.1 hd with rfl | hd
        · exact Ne.symm h3.1
        · exact h4 d hd
      · rintro ⟨pre, e, post, h1, h2, h3, h4⟩
        cases pre with
        | nil =>
          cases h1
          exact absurd (by simp [h2, h3]) h
        | cons b pre =>
          cases h1
          refine ⟨pre, e, post, rfl, h2, ?_, fun d hd => h4 d (by simp [hd])⟩
          rw [List.mem_cons, not_or]
          exact ⟨Ne.symm (h4 a (by simp)), h3⟩

/-- The waiting entry marked as taken. -/
theorem markTaken_split {pre post : List ReadEntry} {e : ReadEntry} (he : ReadEntry.waits e = true)
    (hn : ∀ d ∈ pre, ReadEntry.waits d = false) :
    markTaken (pre ++ e :: post) = pre ++ { e with kind := .forwarded true } :: post := by
  induction pre with
  | nil => simp [markTaken, he]
  | cons a l ih =>
    rw [List.cons_append, markTaken, hn a (by simp), ih fun d hd => hn d (by simp [hd])]
    rfl

/-- A read can arrive where the list has room and no forwarded burst waits (R148, R157). -/
theorem readRoom_iff (s : State) :
    s.readRoom = true ↔ s.reads.length < 32 ∧ ∀ e ∈ s.reads, e.kind ≠ .forwarded false := by
  unfold State.readRoom ReadEntry.waits
  rw [Bool.and_eq_true]
  exact and_congr decide_eq_true_iff (by simp)

/-- The transfers of an entry's beats, the last one marked. -/
theorem readTransfers_eq (id : BusId) (n : Nat) (vs : List Beat) (k : Nat) (h : k + vs.length = n) :
    readTransfers id vs = (vs.zipIdx k).map fun x => .upReadBeat id x.1 .okay (x.2 + 1 == n) := by
  induction vs generalizing k with
  | nil => rfl
  | cons a l ih =>
    cases l with
    | nil =>
      simp only [List.length_cons, List.length_nil] at h
      subst h
      simp [readTransfers]
    | cons b m =>
      have hk : (k + 1 == n) = false := by
        simp only [List.length_cons] at h
        simp
        omega
      rw [readTransfers, ih (k + 1) (by simp only [List.length_cons] at h ⊢; omega), List.zipIdx_cons (as := b :: m)]
      simp only [List.map_cons, hk]
      exact nofun

/-! ### Writes -/

/-- The last data beat of an entry has arrived. -/
theorem complete_iff (e : WriteEntry) : WriteEntry.complete e = true ↔ e.burst.len.toNat + 1 ≤ e.arrived := by
  unfold WriteEntry.complete Burst.beats
  rw [decide_eq_true_eq]

/-- A LIVE entry. -/
theorem isLive_iff (e : WriteEntry) : WriteEntry.isLive e = true ↔ ∃ flagged, e.kind = .live flagged := by
  unfold WriteEntry.isLive
  cases e.kind <;> simp

/-- The oldest entry of an ID. -/
theorem oldestWrite_split {pre post : List WriteEntry} {e : WriteEntry} (hn : ∀ d ∈ pre, d.id ≠ e.id) :
    oldestWrite e.id (pre ++ e :: post) = some e :=
  find_split (by simp) fun d hd => by simpa using hn d hd

/-- The oldest entry of an ID leaves the list. -/
theorem removeWrite_split {pre post : List WriteEntry} {e : WriteEntry} (hn : ∀ d ∈ pre, d.id ≠ e.id) :
    removeWrite e.id (pre ++ e :: post) = pre ++ post :=
  erase_split (by simp) fun d hd => by simpa using hn d hd

/-- Memory's response of an ID counts exactly where the oldest entry of the ID is a forwarded burst whose data have gone
(R157). -/
theorem memoryRespCounts_iff (s : State) (id : BusId) : s.memoryRespCounts id = true ↔
    ∃ pre e post, s.writes = pre ++ e :: post ∧ e.id = id ∧ e.kind = .forwarded ∧
      e.burst.len.toNat + 1 ≤ e.arrived ∧ ∀ d ∈ pre, d.id ≠ id := by
  constructor
  · intro h
    unfold State.memoryRespCounts oldestWrite at h
    split at h
    · rename_i e he
      obtain ⟨h1, pre, post, h2, h3⟩ := split_of_find he
      rw [Bool.and_eq_true] at h
      exact ⟨pre, e, post, h2, by simpa using h1, by simpa using h.1, (complete_iff e).1 h.2,
        fun d hd => by simpa using h3 d hd⟩
    · cases h
  · rintro ⟨pre, e, post, h1, rfl, h2, h3, h4⟩
    unfold State.memoryRespCounts
    rw [h1, oldestWrite_split h4]
    simp [h2, (complete_iff e).2 h3]

/-- The oldest ready LIVE entry, behind entries that are not ready. -/
theorem readyWrite_split {older : List BusId} {pre post : List WriteEntry} {e : WriteEntry}
    (he : WriteEntry.isLive e = true) (hc : WriteEntry.complete e = true) (ho : e.id ∉ older)
    (hid : ∀ d ∈ pre, d.id ≠ e.id)
    (hn : ∀ p q d, pre = p ++ d :: q → WriteEntry.isLive d = true → WriteEntry.complete d = true →
      d.id ∈ older ∨ ∃ b ∈ p, b.id = d.id) :
    readyWrite older (pre ++ e :: post) = some e := by
  induction pre generalizing older with
  | nil =>
    rw [List.nil_append, readyWrite, if_pos]
    simp [he, hc, ho]
  | cons a l ih =>
    rw [List.cons_append, readyWrite, if_neg]
    · refine ih ?_ (fun d hd => hid d (by simp [hd])) fun p q d h1 h2 h3 => ?_
      · simp only [List.mem_cons, not_or]
        exact ⟨fun h => hid a (by simp) h.symm, ho⟩
      · rcases hn (a :: p) q d (by rw [h1]; rfl) h2 h3 with h | ⟨b, hb, hbi⟩
        · exact .inl (by simp [h])
        · rcases List.mem_cons.1 hb with rfl | hb
          · exact .inl (by simp [hbi])
          · exact .inr ⟨b, hb, hbi⟩
    · rw [Bool.and_eq_true, Bool.and_eq_true]
      rintro ⟨⟨h1, h3⟩, h2⟩
      rcases hn [] l a rfl h1 h3 with h | ⟨b, hb, _⟩
      · simp [h] at h2
      · cases hb

/-- A LIVE entry is ready where its data have arrived and no older entry has its ID, and only there (R154, R157). -/
theorem readyWrite_isSome (older : List BusId) (l : List WriteEntry) : (readyWrite older l).isSome = true ↔
    ∃ pre e post, l = pre ++ e :: post ∧ WriteEntry.isLive e = true ∧ WriteEntry.complete e = true ∧ e.id ∉ older ∧
      ∀ d ∈ pre, d.id ≠ e.id := by
  induction l generalizing older with
  | nil => simp [readyWrite]
  | cons a l ih =>
    rw [readyWrite]
    split
    · rename_i h
      rw [Bool.and_eq_true, Bool.and_eq_true] at h
      exact ⟨fun _ => ⟨[], a, l, rfl, h.1.1, h.1.2, by simpa using h.2, nofun⟩, fun _ => rfl⟩
    · rename_i h
      rw [ih]
      constructor
      · rintro ⟨pre, e, post, h1, h2, h5, h3, h4⟩
        rw [List.mem_cons, not_or] at h3
        refine ⟨a :: pre, e, post, by rw [h1]; rfl, h2, h5, h3.2, fun d hd => ?_⟩
        rcases List.mem_cons.1 hd with rfl | hd
        · exact Ne.symm h3.1
        · exact h4 d hd
      · rintro ⟨pre, e, post, h1, h2, h5, h3, h4⟩
        cases pre with
        | nil =>
          cases h1
          exact absurd (by simp [h2, h3, h5]) h
        | cons b pre =>
          cases h1
          refine ⟨pre, e, post, rfl, h2, h5, ?_, fun d hd => h4 d (by simp [hd])⟩
          rw [List.mem_cons, not_or]
          exact ⟨Ne.symm (h4 a (by simp)), h3⟩

/-- The open entry changed. -/
theorem updateOpen_split {f : WriteEntry → WriteEntry} {pre post : List WriteEntry} {e : WriteEntry}
    (he : WriteEntry.complete e = false) (hn : ∀ d ∈ pre, WriteEntry.complete d = true) :
    updateOpen f (pre ++ e :: post) = pre ++ f e :: post := by
  induction pre with
  | nil => simp [updateOpen, he]
  | cons a l ih =>
    rw [List.cons_append, updateOpen, hn a (by simp), ih fun d hd => hn d (by simp [hd])]
    rfl

/-- The transfers of the writer's beats, the last one marked. -/
theorem beatTransfers_eq (n : Nat) (vs : List (Beat × BitVec 8)) (k : Nat) (h : k + vs.length = n) :
    beatTransfers vs = (vs.zipIdx k).map fun x => .downWriteBeat x.1.1 x.1.2 (x.2 + 1 == n) := by
  induction vs generalizing k with
  | nil => rfl
  | cons a l ih =>
    cases l with
    | nil =>
      simp only [List.length_cons, List.length_nil] at h
      subst h
      simp [beatTransfers]
    | cons b m =>
      have hk : (k + 1 == n) = false := by
        simp only [List.length_cons] at h
        simp
        omega
      rw [beatTransfers, ih (k + 1) (by simp only [List.length_cons] at h ⊢; omega), List.zipIdx_cons (as := b :: m)]
      simp only [List.map_cons, hk]
      exact nofun

end Sys2Proof.Machine
end

