-- ==== Sys2Proof/Laws/RunKept.lean ====
section
/-! SUPPORT. What the events of a run can do, said once: a property of states that the ways a run starts, goes on and ends
keep is kept by every event of the channel engines. -/

namespace Sys2Proof.Machine

open Sys2Proof Sys2Proof.Safety

/-- A context that is still in flight on the same run. -/
structure SameRun (c d : Channel) : Prop where
  inFlight : Channel.inFlight d = true
  snapshot : d.snapshot = c.snapshot
  step     : d.step = c.step
  held     : d.held = c.held
  deadline : d.deadline = c.deadline

/-- A property that each way of changing a channel keeps: `tweak` while its run goes on within its snapshot's counts,
`aside` where only fields change that no run rests on, `ended` and `judged` where the run ends, `started` where one
starts. -/
structure RunKept (P : State → Prop) : Prop where
  tweak : ∀ ch c s, Channel.inFlight (s.ch ch) = true → SameRun (s.ch ch) c →
    (∀ sn, (s.ch ch).snapshot = some sn → 1 ≤ sn.host.contactRun.toNat → RunRange (s.ch ch) sn → RunRange c sn) →
    P s → P (s.setCh ch c)
  aside : ∀ ch c s, c.state = (s.ch ch).state → c.snapshot = (s.ch ch).snapshot → c.step = (s.ch ch).step →
    c.held = (s.ch ch).held → c.deadline = (s.ch ch).deadline → c.retries = (s.ch ch).retries →
    c.touchRun = (s.ch ch).touchRun → c.settleLeft = (s.ch ch).settleLeft → c.averaged = (s.ch ch).averaged →
    P s → P (s.setCh ch c)
  ended : ∀ ch c e s, Channel.inFlight (s.ch ch) = true → SameRun (s.ch ch) c → P s → P (endRun ch e (s.setCh ch c))
  judged : ∀ ch c e sn v s, Channel.inFlight (s.ch ch) = true → SameRun (s.ch ch) c →
    (s.ch ch).snapshot = some sn → P s →
    P (endRun ch e ((s.setCh ch c).setEntry sn.step.toNat
      { (s.setCh ch c).entry sn.step.toNat with learn := (qualify (s.setCh ch c) sn v).learn }))
  started : ∀ ch n s, (s.ch ch).state = .idle → n.toNat < 8191 → (s.entry n.toNat).valid = true →
    s.sourceTripped (s.entry n.toNat) = false → P s → P (startRun ch n s)
  tick : ∀ s, P s → P (increment s)
  tap : ∀ ch t s, P s → P (s.setTap ch t)

namespace RunKept

variable {P : State → Prop}

/-- The end of a run from the context as it stands. -/
theorem endedHere (K : RunKept P) (ch e s) (hf : Channel.inFlight (s.ch ch) = true) (h : P s) : P (endRun ch e s) := by
  have : s.setCh ch (s.ch ch) = s := by simp [State.setCh, State.ch]
  have h2 := K.ended ch (s.ch ch) e s hf ⟨hf, rfl, rfl, rfl, rfl⟩ h
  rwa [this] at h2

/-- Setting a channel twice is setting it to the second context. -/
theorem setCh_setCh (s : State) (ch c d) : (s.setCh ch c).setCh ch d = s.setCh ch d := by simp [State.setCh]

/-- A retry from a context of the same run. -/
theorem retry (K : RunKept P) (ch c sn cause n s) (hf : Channel.inFlight (s.ch ch) = true)
    (hs : (s.ch ch).snapshot = some sn) (hc : SameRun (s.ch ch) c) (h : P s) :
    P (retry ch sn cause n (s.setCh ch c)) := by
  unfold Machine.retry
  dsimp only
  rw [setCh_ch_same, setCh_setCh, setCh_setCh]
  split
  · rename_i hlt
    refine K.tweak ch _ s hf ⟨rfl, hc.snapshot, hc.step, hc.held, hc.deadline⟩ ?_ h
    intro sn' h1 h2 _
    rw [hs] at h1
    cases h1
    have hl := sn.host.retryLimit.isLt
    refine ⟨?_, fun _ => h2, nofun, nofun⟩
    show (c.retries + 1).toNat ≤ _
    rw [BitVec.toNat_add]
    have : (1 : BitVec 3).toNat = 1 := rfl
    have hlt' : c.retries.toNat < sn.host.retryLimit.toNat := hlt
    omega
  · exact K.ended ch _ _ s hf ⟨hc.inFlight, hc.snapshot, hc.step, hc.held, hc.deadline⟩ h

/-- Settling keeps the run. -/
theorem settle_run (c : Channel) (n : BitVec 8) (band : Band) :
    Channel.inFlight (Channel.settle c n band) = true ∧ (Channel.settle c n band).snapshot = c.snapshot ∧
      (Channel.settle c n band).step = c.step ∧ (Channel.settle c n band).held = c.held ∧
      (Channel.settle c n band).deadline = c.deadline := by
  unfold Channel.settle
  dsimp only
  split <;> exact ⟨rfl, rfl, rfl, rfl, rfl⟩

/-- Settling starts within the snapshot's counts. -/
theorem settle_range (c : Channel) (sn : Snapshot) (band : Band) (hr : c.retries.toNat ≤ sn.host.retryLimit.toNat) :
    RunRange (Channel.settle c sn.host.settle band) sn := by
  unfold Channel.settle
  dsimp only
  split
  · refine ⟨hr, nofun, nofun, fun _ => ?_⟩
    show 0 < 2 ^ _
    exact Nat.two_pow_pos _
  · rename_i hne
    refine ⟨hr, nofun, fun _ => ⟨?_, Nat.le_refl _⟩, nofun⟩
    show 1 ≤ sn.host.settle.toNat
    have : sn.host.settle.toNat ≠ 0 := fun h => hne (BitVec.eq_of_toNat_eq (by simpa using h))
    omega

theorem inFlight_seeking {c : Channel} (h : c.state = .seeking) : Channel.inFlight c = true := by
  unfold Channel.inFlight
  rw [h]

theorem inFlight_settling {c : Channel} (h : c.state = .settling) : Channel.inFlight c = true := by
  unfold Channel.inFlight
  rw [h]

theorem inFlight_averaging {c : Channel} (h : c.state = .averaging) : Channel.inFlight c = true := by
  unfold Channel.inFlight
  rw [h]

/-- A sample in SEEKING. -/
theorem seek (K : RunKept P) (ch sn w s) (hst : (s.ch ch).state = .seeking) (hs : (s.ch ch).snapshot = some sn)
    (h : P s) : P (seekSample ch sn w s) := by
  have hf := inFlight_seeking hst
  unfold seekSample
  dsimp only
  split
  · split
    · refine K.tweak ch _ s hf ?_ ?_ h
      · obtain ⟨h1, h2, h3, h4, h5⟩ := settle_run
          { s.ch ch with touchHeld := sampleTouch w, touchRun := (s.ch ch).touchRun + 1, contactSeen := true }
          sn.host.settle s.band.current
        exact ⟨h1, h2, h3, h4, h5⟩
      · intro sn' h1 _ h3
        rw [hs] at h1
        cases h1
        exact settle_range _ sn s.band.current h3.retries
    · rename_i hne
      refine K.tweak ch _ s hf ⟨hf, rfl, rfl, rfl, rfl⟩ ?_ h
      intro sn' h1 _ h3
      rw [hs] at h1
      cases h1
      refine ⟨h3.retries, fun _ => ?_, fun hh => absurd (hst.symm.trans hh) nofun,
        fun hh => absurd (hst.symm.trans hh) nofun⟩
      have := h3.seeking hst
      show (s.ch ch).touchRun + 1 < _
      have hne' : ¬ (s.ch ch).touchRun + 1 = sn.host.contactRun.toNat := hne
      omega
  · refine K.tweak ch _ s hf ⟨hf, rfl, rfl, rfl, rfl⟩ ?_ h
    intro sn' h1 h2 h3
    rw [hs] at h1
    cases h1
    exact ⟨h3.retries, fun _ => h2, fun hh => absurd (hst.symm.trans hh) nofun,
      fun hh => absurd (hst.symm.trans hh) nofun⟩

/-- A sample in SETTLING. -/
theorem settle (K : RunKept P) (ch sn w s) (hst : (s.ch ch).state = .settling) (hs : (s.ch ch).snapshot = some sn)
    (h : P s) : P (settleSample ch sn w s) := by
  have hf := inFlight_settling hst
  unfold settleSample
  dsimp only
  split
  · split
    · refine K.tweak ch _ s hf ⟨rfl, rfl, rfl, rfl, rfl⟩ ?_ h
      intro sn' h1 _ h3
      rw [hs] at h1
      cases h1
      exact ⟨h3.retries, nofun, nofun, fun _ => Nat.two_pow_pos _⟩
    · rename_i hne
      refine K.tweak ch _ s hf ⟨hf, rfl, rfl, rfl, rfl⟩ ?_ h
      intro sn' h1 _ h3
      rw [hs] at h1
      cases h1
      refine ⟨h3.retries, fun hh => absurd (hst.symm.trans hh) nofun, fun _ => ?_,
        fun hh => absurd (hst.symm.trans hh) nofun⟩
      have hne' : ¬ (s.ch ch).settleLeft - 1 = 0 := hne
      have := h3.settling hst
      show 1 ≤ (s.ch ch).settleLeft - 1 ∧ (s.ch ch).settleLeft - 1 ≤ _
      omega
  · exact K.retry ch _ sn _ _ s hf hs ⟨hf, rfl, rfl, rfl, rfl⟩ h

/-- A sample in AVERAGING. -/
theorem average (K : RunKept P) (ch sn w s) (hst : (s.ch ch).state = .averaging) (hs : (s.ch ch).snapshot = some sn)
    (h : P s) : P (averageSample ch sn w s) := by
  have hf := inFlight_averaging hst
  unfold averageSample
  dsimp only
  split
  · split
    · unfold joinSet
      dsimp only
      split
      · unfold completeSet
        dsimp only
        split
        · exact K.retry ch _ sn _ _ s hf hs ⟨hf, rfl, rfl, rfl, rfl⟩ h
        · unfold judgeSet
          dsimp only
          exact K.judged ch _ _ sn _ s hf ⟨hf, rfl, rfl, rfl, rfl⟩ hs h
      · rename_i hne
        refine K.tweak ch _ s hf ⟨hf, rfl, rfl, rfl, rfl⟩ ?_ h
        intro sn' h1 _ h3
        rw [hs] at h1
        cases h1
        refine ⟨h3.retries, fun hh => absurd (hst.symm.trans hh) nofun, fun hh => absurd (hst.symm.trans hh) nofun,
          fun _ => ?_⟩
        have := h3.averaging hst
        have hne' : ¬ (s.ch ch).averaged + 1 = HostFields.samples sn.host := hne
        show (s.ch ch).averaged + 1 < _
        omega
    · refine K.tweak ch _ s hf ?_ ?_ h
      · obtain ⟨h1, h2, h3, h4, h5⟩ := settle_run
          (Channel.clearSet (Channel.heldTouch (s.ch ch) (sampleTouch w))) sn.host.settle s.band.current
        exact ⟨h1, h2, h3, h4, h5⟩
      · intro sn' h1 _ h3
        rw [hs] at h1
        cases h1
        exact settle_range _ sn s.band.current h3.retries
  · exact K.retry ch _ sn _ _ s hf hs ⟨hf, rfl, rfl, rfl, rfl⟩ h

/-- An in-sequence sample handed to the engine. -/
theorem engineSample (K : RunKept P) (ch w s) (h : P s) : P (engineSample ch w s) := by
  unfold Machine.engineSample
  dsimp only
  split
  · exact h
  · exact K.aside ch _ s rfl rfl rfl rfl rfl rfl rfl rfl rfl h
  · rename_i h1 h2
    exact K.seek ch _ w s h1 h2 h
  · rename_i h1 h2
    exact K.settle ch _ w s h1 h2 h
  · rename_i h1 h2
    exact K.average ch _ w s h1 h2 h
  all_goals exact h

/-- A stray handed to the engine. -/
theorem engineStray (K : RunKept P) (ch s) (h : P s) : P (engineStray ch s) := by
  unfold Machine.engineStray
  dsimp only
  split
  · exact h
  · exact K.aside ch _ s rfl rfl rfl rfl rfl rfl rfl rfl rfl h
  · rename_i h1
    have hst : (s.ch ch).state = .seeking := h1
    have hf := inFlight_seeking hst
    refine K.tweak ch _ s hf ⟨hf, rfl, rfl, rfl, rfl⟩ ?_ h
    intro sn' _ h2 h3
    exact ⟨h3.retries, fun _ => h2, fun hh => absurd (hst.symm.trans hh) nofun,
      fun hh => absurd (hst.symm.trans hh) nofun⟩
  · rename_i h1 h2
    have hf := inFlight_settling (c := s.ch ch) h1
    exact K.retry ch _ _ _ _ s hf h2 ⟨hf, rfl, rfl, rfl, rfl⟩ h
  · rename_i h1 h2
    have hf := inFlight_averaging (c := s.ch ch) h1
    exact K.retry ch _ _ _ _ s hf h2 ⟨hf, rfl, rfl, rfl, rfl⟩ h
  all_goals exact h

/-- A full word at a tap's cursor. -/
theorem sample (K : RunKept P) (ch w s) (h : P s) : P (takeSample ch w s) := K.engineSample ch w _ (K.tap _ _ _ h)

/-- A stray word of a sample window. -/
theorem stray (K : RunKept P) (ch a s) (h : P s) : P (takeSampleStray ch a s) := K.engineStray ch _ (K.tap _ _ _ h)

/-- A deadline expiry. -/
theorem expiry (K : RunKept P) (ch s) (h : P s) : P (takeExpiry ch s) := by
  unfold takeExpiry
  split
  · rename_i hd
    unfold State.expiryDue at hd
    rw [Bool.and_eq_true] at hd
    exact K.endedHere ch _ s hd.1 h
  · exact h

/-- A channel bound to a source has its run in flight. -/
theorem inFlight_boundTo {c : Channel} {src} (h : Channel.boundTo c src = true) : Channel.inFlight c = true := by
  unfold Channel.boundTo at h
  rw [Bool.and_eq_true] at h
  exact h.1

/-- One pair's charge metered into one run. -/
theorem meterRun (K : RunKept P) (src i ch s) (h : P s) : P (meterRun src i ch s) := by
  unfold Machine.meterRun
  dsimp only
  split
  · rename_i hm
    unfold State.metered at hm
    rw [Bool.and_eq_true, Bool.and_eq_true, Bool.and_eq_true] at hm
    have hf := inFlight_boundTo hm.1.1.1
    split
    · exact K.ended ch _ _ s hf ⟨hf, rfl, rfl, rfl, rfl⟩ h
    · exact K.aside ch _ s rfl rfl rfl rfl rfl rfl rfl rfl rfl h
  · exact h

/-- One pair's charge metered into every run on the source. -/
theorem meterPair (K : RunKept P) (src i s) (h : P s) : P (meterPair src i s) :=
  Kept.fold (fun ch s h => K.meterRun src i ch s h) _ s h

/-- The end of one run bound to a source. -/
theorem endGuarded (K : RunKept P) (src ch s) (h : P s) : P (endGuarded src ch s) := by
  unfold Machine.endGuarded
  split
  · rename_i hb
    exact K.endedHere ch _ s (inFlight_boundTo hb) h
  · exact h

/-- The end of every run bound to a source. -/
theorem endBoundRuns (K : RunKept P) (src s) (h : P s) : P (endBoundRuns src s) :=
  Kept.fold (fun ch s h => K.endGuarded src ch s h) _ s h

/-- A result code set. -/
theorem result (K : RunKept P) (ch r s) (h : P s) : P (setResult ch r s) :=
  K.aside ch _ s rfl rfl rfl rfl rfl rfl rfl rfl rfl h

/-- An ARM that answers DONE passed every check. -/
theorem armResult_done {s : State} {ch : ChanNo} {n : Nat} (h : s.armResult ch n = .done) :
    (s.ch ch).state = .idle ∧ n < 8191 ∧ (s.entry n).valid = true ∧ s.sourceTripped (s.entry n) = false := by
  unfold State.armResult at h
  split at h
  · cases h
  split at h
  · cases h
  rename_i hidle
  split at h
  · cases h
  rename_i hn
  split at h
  · cases h
  rename_i hv
  split at h
  · cases h
  rename_i ht
  have hi : Channel.isIdle (s.ch ch) = true := by simpa using hidle
  unfold Channel.isIdle at hi
  exact ⟨by simpa using hi, by omega, by simpa using hv, by simpa using ht⟩

/-- A channel command. -/
theorem channel (K : RunKept P) (ch v s) (h : P s) : P (channelCommand ch v s) := by
  unfold channelCommand
  split
  · unfold channelArm
    dsimp only
    split
    · rename_i hr
      obtain ⟨hi, hn, hv, ht⟩ := armResult_done hr
      have e : (BitVec.setWidth 13 (argOf v)).toNat = (argOf v).toNat := by
        rw [BitVec.toNat_setWidth]
        omega
      refine K.result _ _ _ (K.started ch _ s hi ?_ ?_ ?_ h)
      · rw [e]
        exact hn
      · rw [e]
        exact hv
      · rw [e]
        exact ht
    · exact K.result _ _ _ h
  · unfold channelAbort
    split
    · exact K.result _ _ _ h
    · exact K.result _ _ _ (K.aside ch _ s rfl rfl rfl rfl rfl rfl rfl rfl rfl h)
    · rename_i hs
      exact K.result _ _ _ (K.endedHere ch _ s (inFlight_seeking hs) h)
    · rename_i hs
      exact K.result _ _ _ (K.endedHere ch _ s (inFlight_settling hs) h)
    · rename_i hs
      exact K.result _ _ _ (K.endedHere ch _ s (inFlight_averaging hs) h)
  · exact K.result _ _ _ h

end RunKept

end Sys2Proof.Machine
end

