-- ==== Sys2Proof/WellFormed.lean ====
section
/-! DEFINITION. Which terms of `Instr` are commands of their row: the operand conditions that the types do not carry. A
term whose word, strobes or code is another row's, or nobody's, names no event of its row, and `exec` leaves the state as
it is (log 2). A burst that no AXI4 master may issue is treated by the same formulas as any other (log 19). -/

namespace Sys2Proof

open Sys2Proof.Machine

/-- A burst that AXI4 allows a master to issue, as far as the spec states it: a wrapping burst has its first address
aligned to its size (R163) and, PRESUMED from AXI4, 2, 4, 8 or 16 beats; a fixed burst has at most 16 beats
(PRESUMED from AXI4, log 19). -/
def Burst.wellFormed (b : Burst) : Bool :=
  match b.type with
  | .incr => true
  | .fixed => decide (b.len.toNat ≤ 15)
  | .wrap =>
    (b.len == 1#8 || b.len == 3#8 || b.len == 7#8 || b.len == 15#8) && b.addr.toNat % 2 ^ b.size.val == 0

/-- A word address and strobes that name a present word. -/
def presentWord (addr : Addr) (strb : BitVec 4) : Bool := wordOf addr == addr && !absentStrobe strb

/-- Whether a term is a command of its row. -/
def Instr.wellFormed (i : Instr) : Bool :=
  match i with
  | .hardwareReset => true
  | .resetNRelease _ => true
  | .timebaseIncrement => true
  | .deadlineExpiry _ => true
  | .stepWordWrite _ _ _ => true
  | .commit _ _ => true
  | .entry8191Write _ _ => true
  | .partialStrobeWord offset strb _ => namesPartialWord offset.toNat strb
  | .unassignedApertureWrite offset _ => namesUnassigned offset.toNat
  | .timebaseDivWrite _ => true
  | .learnTargetWrite _ => true
  | .noticeEnableWrite _ => true
  | .ringLevelWrite _ => true
  | .ringBaseWrite _ => true
  | .ringSizeWrite _ => true
  | .ringProdAddrWrite _ => true
  | .ringEnable _ => true
  | .ringDisable _ => true
  | .bandTWrite _ _ => true
  | .bandHystWrite _ => true
  | .rangeShiftWrite _ _ => true
  | .compWrite _ _ _ => true
  | .sampleBaseWrite _ _ => true
  | .sampleLenWrite _ _ => true
  | .monBaseWrite _ _ => true
  | .monLenWrite _ _ => true
  | .iLimitWrite _ _ => true
  | .vLimitWrite _ _ => true
  | .pLimitWrite _ _ => true
  | .periodWrite _ _ => true
  | .guardCtrlWrite _ _ => true
  | .moveBaseWrite _ => true
  | .moveLenWrite _ => true
  | .motionIdWrite _ => true
  | .motionIdMaskWrite _ => true
  | .holdPatternWrite _ => true
  | .arm _ _ => true
  | .abort _ _ => true
  | .chCmdUnknown _ op _ => unknownChOp op
  | .planReset _ => true
  | .planResetCompletion _ _ => true
  | .boardOpen _ => true
  | .boardClose _ => true
  | .learnClear _ => true
  | .guardClear _ => true
  | .devCmdUnknown op _ => unknownDevOp op
  | .consumerWrite _ => true
  | .tempWrite _ => true
  | .inspectWrite _ => true
  | .liveWrite (.address o) => o.burst.wellFormed
  | .liveWrite (.beat _ _) => true
  | .liveWriteResponse _ => true
  | .liveRead o => o.burst.wellFormed
  | .deviceFlagsRead o => o.burst.wellFormed
  | .heldRead o => o.burst.wellFormed
  | .forwardedRead => true
  | .readDataReturn _ _ _ _ _ => true
  | .partReadBeatsReturn _ => true
  | .forwardedWriteResponse _ _ _ => true
  | .downstreamWriteGrant none _ => true
  | .downstreamWriteGrant (some o) _ => o.burst.wellFormed
  | .forwardedWriteBeat _ _ => true
  | .inSequenceSample _ _ => true
  | .sampleStray _ addr strb _ => presentWord addr strb
  | .voltageTaken _ _ => true
  | .pairArrival _ _ => true
  | .monitorStray _ addr strb _ => presentWord addr strb
  | .chargeExcess _ _ => true
  | .recordWriteBegin => true
  | .recordWriteOkay _ => true
  | .publication _ => true
  | .writeErrorResponse _ _ => true
  | .forwardedReadArrival o => o.burst.wellFormed

end Sys2Proof
end

