-- ==== Sys2Proof/Tests/Slice0.lean ====
section
/-! SUPPORT. Tests of one step each on small states: terms that are no command of their row, the worked numbers of the spec,
and, for every statement with hypotheses, operands and states that meet them. -/

namespace Sys2Proof.Tests

open Sys2Proof Sys2Proof.Machine Sys2Proof.Safety

/-! ### Small states -/

/-- The state that a command answers. -/
def after (c : Instr) (s : State) : State :=
  match exec c s with
  | .next t => t
  | .fault _ => s
  | .refused _ => s

/-- Host fields of a FIXED step on source 1, as step 60 of the spec's chain example. -/
def fields : HostFields :=
  { HostFields.reset with
    source := 1, avgCode := 1, policy := .always, contactRun := 2, retryLimit := 1, settle := 1, nextStep := 61,
    timeLimit := 100, lowLimit := 1900, highLimit := 2100, budget := 5000 }

/-- A committed entry with host fields. -/
def entryOf (h : HostFields) : Entry :=
  { Entry.reset with host := h, valid := true, status := .committed, generation := 8 }

/-- A snapshot of step 60. -/
def snapOf (h : HostFields) : Snapshot := { step := 60, host := h, generation := 8 }

/-- A run of step 60 in a state of its own. -/
def runIn (st : ChState) (h : HostFields) : Channel :=
  { Channel.reset with state := st, step := 60, snapshot := some (snapOf h), latchedBand := .b }

/-- A verdict of step 60 on channel 0. -/
def verdictOf (o : VerdictCode) : Verdict :=
  { step := 60, channel := 0, outcome := o, retries := 0, band := .a, stale := false, repeated := false,
    noBoard := false, carried := false, board := noBoard, value := 0, spread := 0, elapsed := 0 }

/-- Channel 0 holding a verdict. -/
def holding (o : VerdictCode) : Channel := { runIn .holding fields with held := some (verdictOf o) }

/-- The part with its aperture at 0x01000000, steps 60 and 61 committed, a sample window of six words on channel 0 and a
monitor window of four pairs on source 1, both cursors at the last place of their window. -/
def base : State :=
  { State.reset with
    apBase := 0x10, timebase := 1180, table := [(60, { entryOf fields with runs := 1 }), (61, entryOf fields)],
    taps := State.reset.taps.set 0 { base := 0x08000000, len := 6, cursor := 0x08000014 },
    srcs := State.reset.srcs.set 1
      { Source.reset with base := 0x09000000, len := 4, cursor := 0x09000018, iLimit := 150000, period := 50 },
    move := { base := 0x0B000000, len := 2048, id := 0x0040, mask := 0x00FF, pattern := 1 } }

/-- The part with a context on channel 0. -/
def withRun (c : Channel) : State := base.setCh 0 c

/-- The part with a writer: 16 slots, producer 40, consumer 25. -/
def withWriter (st : WriterState) (s : State) : State :=
  { s with writer := { Writer.reset with
      state := st, ringBase := 0x00200000, prodAddr := 0x00200104, producer := 40, consumer := 25 } }

/-- A write in flight on the part's writer. -/
def withFlight (k : WriteKind) (p : WritePhase) (s : State) : State :=
  let s' := withWriter .writing s
  { s' with writer := { s'.writer with flight := some { kind := k, addr := 0x00200080, beats := [(5, 0xFF)], phase := p } } }

/-- Attributes of a test burst. -/
def plain : Attrs := { lock := false, cache := 0, prot := 0, qos := 0, region := 0, user := 0 }

/-- An incrementing burst of 64-bit beats under an ID. -/
def offer (id : BusId) (addr : Addr) (len : BitVec 8) : Offer :=
  { id := id, burst := { addr := addr, len := len, size := 3, type := .incr, attrs := plain } }

/-- The part with hold engaged: source 1 tripped with hold enabled. -/
def tripped : State :=
  base.setSrc 1 { base.src 1 with holdEnable := true, trips := { overI := true, overV := false, overP := false } }

/-- The part with a run in AVERAGING on channel 0 whose deadline is given, and a cycle count. -/
def timed (deadline : BitVec 32) (cycles : Nat) : State :=
  { withRun { runIn .averaging fields with contactSeen := true, deadline := some deadline } with divCount := cycles }

/-- An entry of the read list. -/
def read (id : BusId) (k : ReadKind) : ReadEntry := { id := id, burst := (offer 0 0 0).burst, kind := k }

/-- The part with outstanding reads: memory has the first, the part answers the second and, behind the first of its ID,
the third, and the last waits for memory. -/
def reading (served : Served) : State :=
  { base with
    servedRead := served
    reads := [read 1 (.forwarded true), read 2 (.live [7]), read 1 (.held 5), read 3 (.forwarded false)] }

/-- An entry of the write list, of one beat. -/
def write (id : BusId) (k : WriteEntryKind) (arrived : Nat) : WriteEntry :=
  { id := id, burst := (offer 0 0 0).burst, kind := k, arrived := arrived }

/-- The part with outstanding writes: all data of the first, the second and the third have arrived, the third behind the
first of its ID, and the last have beats to come. -/
def writing (served : Served) : State :=
  { base with
    servedResp := served
    writes := [write 1 .forwarded 1, write 2 (.live true) 1, write 1 (.live false) 1, write 3 .forwarded 0,
               write 4 (.live false) 0] }

/-! ### Terms that are no command of their row -/

theorem test_illFormed_words :
    Instr.wellFormed (.partialStrobeWord 0x40001 3 0) = false ∧
    Instr.wellFormed (.partialStrobeWord 0x42000 3 0) = false ∧
    Instr.wellFormed (.partialStrobeWord 0x40000 15 0) = false ∧
    Instr.wellFormed (.partialStrobeWord 0x40000 0 0) = false ∧
    Instr.wellFormed (.partialStrobeWord 0x40000 14 0) = true ∧
    Instr.wellFormed (.unassignedApertureWrite 0x42101 0) = false ∧
    Instr.wellFormed (.unassignedApertureWrite 0x40000 0) = false ∧
    Instr.wellFormed (.unassignedApertureWrite 0x40030 0) = true := by decide

theorem test_illFormed_codes :
    Instr.wellFormed (.chCmdUnknown 0 1 0) = false ∧ Instr.wellFormed (.chCmdUnknown 0 2 0) = false ∧
    Instr.wellFormed (.chCmdUnknown 0 3 0) = true ∧ Instr.wellFormed (.devCmdUnknown 1 0) = false ∧
    Instr.wellFormed (.devCmdUnknown 5 0) = false ∧ Instr.wellFormed (.devCmdUnknown 6 0) = true := by decide

theorem test_illFormed_strays :
    Instr.wellFormed (.sampleStray 0 0x08000001 15 0) = false ∧
    Instr.wellFormed (.sampleStray 0 0x08000000 0 0) = false ∧
    Instr.wellFormed (.monitorStray 0 0x09000002 15 0) = false ∧
    Instr.wellFormed (.monitorStray 0 0x09000000 0 0) = false ∧
    Instr.wellFormed (.monitorStray 0 0x09000004 15 0) = true := by decide

/-- A wrapping burst of three beats, a wrapping burst off its size, and a fixed burst of 17 beats. -/
def illBursts : List Burst :=
  [{ (offer 0 0 2).burst with type := .wrap }, { (offer 0 4 3).burst with type := .wrap },
   { (offer 0 0 16).burst with type := .fixed }]

theorem test_illFormed_bursts :
    (∀ b ∈ illBursts, Instr.wellFormed (.liveWrite (.address ⟨0, b⟩)) = false ∧
      Instr.wellFormed (.liveRead ⟨0, b⟩) = false ∧ Instr.wellFormed (.deviceFlagsRead ⟨0, b⟩) = false ∧
      Instr.wellFormed (.heldRead ⟨0, b⟩) = false ∧ Instr.wellFormed (.forwardedReadArrival ⟨0, b⟩) = false ∧
      Instr.wellFormed (.downstreamWriteGrant (some ⟨0, b⟩) false) = false) ∧
    Instr.wellFormed (.liveRead (offer 0 0 255)) = true := by decide

theorem test_an_illFormed_term_changes_nothing :
    after (.chCmdUnknown 0 1 0) base = base ∧ after (.partialStrobeWord 0x40001 3 0) base = base := by decide

/-! ### The worked numbers of the spec -/

/-- 1.11: the words of step 37, and the generation and validity that its edits and commits leave. -/
theorem test_an_edit_and_a_commit :
    let e := entryOf { fields with lowLimit := 5000, highLimit := 5400 }
    let s := { base with table := [(37, e)] }
    ((after (.stepWordWrite 37 2 6000) s).entry 37 =
      { e with host := { e.host with lowLimit := 6000 }, generation := 9, valid := false }) ∧
    (after (.stepWordWrite 37 2 6000) s).trace = [.downWord 0x010004A8 15 6000] ∧
    stepOffset 37 7 = 0x4BC := by decide

theorem test_a_rejected_commit :
    let e := { entryOf { fields with lowLimit := 6000, highLimit := 5400 } with generation := 255, valid := false }
    let t := after (.commit 37 77) { base with table := [(37, e)] }
    (t.entry 37).valid = false ∧ (t.entry 37).status = .rejected ∧ (t.entry 37).generation = 0 ∧
    (t.entry 37).host.budget = 77 ∧ t.flags.commitRejected = true := by decide

theorem test_entry_8191 :
    (after (.entry8191Write 7 9) base).flags.apertureMisuse = true ∧
    (after (.entry8191Write 7 9) base).table = base.table ∧
    (after (.entry8191Write 7 9) base).trace = [.downWord 0x0103FFFC 15 9] := by decide

theorem test_configuration_words :
    (after (.timebaseDivWrite 1023) base).timebaseDiv = 1023 ∧
    (after (.timebaseDivWrite 1024) base).flags.configRefused = true ∧
    (after (.learnTargetWrite 15) base).learnTarget = 15 ∧ (after (.learnTargetWrite 16) base).learnTarget = 3 ∧
    (after (.rangeShiftWrite 7 0xFFFFFFFF) base).rangeShift[7] = 7 ∧
    (after (.ringSizeWrite 0x15) base).writer.sizeCode = 5 ∧
    (after (.ringProdAddrWrite 0x00200107) base).writer.prodAddr = 0x00200104 ∧
    (after (.monBaseWrite 2 0x0900000F) base).srcs[2].base = 0x09000008 ∧
    (after (.guardCtrlWrite 2 2) base).srcs[2].holdEnable = true := by decide

/-- 4: a coefficient of -250,000 is held as -100,000, and forwarded as written. -/
theorem test_a_clamped_coefficient :
    (after (.compWrite 4 1 (-250000)) base).comp[17] = -100000 ∧
    (after (.compWrite 4 1 (-250000)) base).trace = [.downWord 0x010400C4 15 (-250000)] := by decide

/-- 4: the average 1,541,600 with the coefficient -2400, and its mirror image. -/
theorem test_compensation :
    compensate 1541600 (-2400) = 1537901 ∧ compensate (-1541600) (-2400) = -1537901 ∧
    judgeBoth 1537901 1500000 1540000 = .pass ∧ judgeBoth 1541600 1500000 1540000 = .high := by decide

/-- 2: samples on range 2 with a shift of 4. -/
theorem test_normalising :
    let s := { base with rangeShift := base.rangeShift.set 2 4 }
    s.normalise 0x12FFFC18 = -16000 ∧ s.normalise 0x120009C4 = 40000 ∧ s.normalise 0x1AFFFFFC = 134217712 := by
  decide

/-- 3: the average of the four samples 1004, 998, 1001 and 1003. -/
theorem test_average : averageOf 4006 4 = 1002 ∧ averageOf (-6) 4 = -1 ∧ elapsedField 5220 5000 = 22 := by decide

/-- 4: band moves with thresholds 250, 400, 550 and hysteresis 20. -/
theorem test_band_moves :
    let b : BandSelector := { base.band with t1 := 250, t2 := 400, t3 := 550, hyst := 20 }
    b.move 260 = .a ∧ b.move 275 = .b ∧ { b with current := .b }.move 255 = .b ∧
    { b with current := .b }.move 245 = .a ∧ b.move 600 = .d ∧ { b with current := .d }.move 560 = .d ∧
    { b with current := .d }.move 300 = .b ∧
    { b with current := .b, t1 := 150, t2 := 200 }.move 300 = .c := by decide

theorem test_temp_with_unordered_thresholds :
    (after (.tempWrite 0x1012C) base).band.last = 300 ∧ (after (.tempWrite 300) base).band.noTempYet = false ∧
    (after (.tempWrite 300) base).flags.bandConfig = true := by decide

/-- 11.1: the third value brings the count to three, and the limits are derived. -/
theorem test_derivation :
    let r : LearnRecord := { LearnRecord.cleared with
      count := 2, lastBoard := 22, least := 1100, greatest := 1120, sum := 2220 }
    LearnRecord.learn r 1090 23 3 10000 15 =
      { count := 3, lastBoard := 23, least := 1090, greatest := 1120, sum := 3310, derived := true,
        derivedLow := 1075, derivedHigh := 1135 } := by decide

/-- 5: a negative step, and a margin that saturates both limits. -/
theorem test_derivation_of_a_negative_step :
    let r : LearnRecord := { LearnRecord.cleared with
      count := 3, lastBoard := 22, least := -2010, greatest := -1990, sum := -6000 }
    (LearnRecord.derive r 20000 0).derivedLow = -2050 ∧ (LearnRecord.derive r 20000 0).derivedHigh = -1950 ∧
    (LearnRecord.derive r 20000 4000000000).derivedLow = 0x80000000 ∧
    (LearnRecord.derive r 20000 4000000000).derivedHigh = 0x7FFFFFFF := by decide

/-- 11.2: the completing sample of step 60: average 2002, PASS, elapsed 18. -/
theorem test_a_completing_sample :
    let c := { runIn .averaging fields with
      averaged := 1, sum := 2000, least := 2000, greatest := 2000, firstRange := some 0, runStart := 1000 }
    let t := after (.inSequenceSample 0 0x100007D4) (withRun c)
    (t.ch 0).state = .holding ∧ (t.ch 0).held = some { verdictOf .pass with
      band := .b, value := 2002, spread := 4, elapsed := 18 } ∧
    t.queue = [0] ∧ (t.tap 0).cursor = 0x08000000 ∧ (t.entry 60).runs = 0 := by decide

/-- 2: the fourth beat of the disturbed stream: a stray moves the cursor to the word after it. -/
theorem test_a_stray :
    let t := after (.sampleStray 0 0x08000008 15 0) (withRun (runIn .settling fields))
    (t.tap 0).cursor = 0x0800000C ∧ (t.ch 0).state = .seeking ∧ (t.ch 0).retries = 1 ∧
    (t.ch 0).lastRetry = .sequence := by decide

/-- 7: a skipped pair: the voltage word of the last pair is a stray, and the cursor goes to the base. -/
theorem test_a_monitor_stray :
    let s := base.setSrc 1 { base.src 1 with cursor := 0x09000010 }
    let t := after (.monitorStray 1 0x09000018 15 0) s
    (t.src 1).cursor = 0x09000000 ∧ (t.src 1).seqInd = true ∧ t.flags.monSequence = true := by decide

/-- 7: a current of 180,000 µA over a limit of 150,000 in EACH ends the run with GUARD and meters nothing. -/
theorem test_a_trip :
    let s := withRun { runIn .averaging fields with charge := 22000000 }
    let t := after (.pairArrival 1 180000) (s.setSrc 1 { s.src 1 with half := some 3000 })
    (t.ch 0).state = .holding ∧ (t.ch 0).held.map (·.outcome) = some .guard ∧ (t.ch 0).charge = 22000000 ∧
    (t.src 1).trips.overI = true ∧ (t.ch 0).chainSuppressed = true := by decide +kernel

/-- 7: a run that stays under the current limit and passes its budget of 50,000,000 counts. -/
theorem test_a_charge_excess :
    let s := withRun { runIn .averaging fields with charge := 45000000 }
    let t := after (.pairArrival 1 100001) (s.setSrc 1 { s.src 1 with half := some 3000 })
    (t.ch 0).held.map (·.outcome) = some .charge ∧ (t.ch 0).charge = 50000050 ∧
    (after (.chargeExcess 0 100001) s).chans = t.chans := by decide

/-- R125: no charge is metered from a source whose window is disabled. -/
theorem test_no_charge_from_a_disabled_window :
    let s := withRun { runIn .averaging fields with charge := 45000000 }
    let s' := s.setSrc 1 { s.src 1 with len := 0 }
    s.chargeExceeds 0 100001 = true ∧ (after (.chargeExcess 0 100001) s').ch 0 = s'.ch 0 := by decide

/-- 11.4: the comparison of the truncated means at pairs 3 and 4. -/
theorem test_avg4_comparison :
    let p (v i : Word) : Pair := { voltage := v, current := i }
    let r : Source := { Source.reset with mode := .avg4, vLimit := 12000, pLimit := 2000000 }
    Source.found { r with history := [p 10000 100000, p 11000 100000, p 14000 100000, p 16000 120000] } (p 0 0) =
      { overI := false, overV := true, overP := false } ∧
    Source.found { r with history := [p 11000 100000, p 14000 100000, p 16000 120000, p 22000 240000] } (p 0 0) =
      { overI := false, overV := true, overP := true } ∧
    Source.found { r with history := [p 10000 100000, p 10000 100000, p 11000 100000, p 14000 100000] } (p 0 0) =
      { overI := false, overV := false, overP := false } := by decide

/-- 10: the record of step 37 as written. -/
theorem test_the_record_words :
    let v : Verdict := { step := 37, channel := 2, outcome := .pass, retries := 1, band := .b, stale := true,
                         repeated := false, noBoard := false, carried := false, board := 44, value := 5200,
                         spread := 6, elapsed := 22 }
    Verdict.word0 v 212 = 0x002C00D4 ∧ Verdict.word1 v = 0x05104025 ∧ Verdict.word2 v = 0x00001450 ∧
    Verdict.word3 v = 0x00160006 ∧ producerWord 212 = 213 ∧
    Verdict.beats v 212 = [(0x05104025002C00D4, 255), (0x0016000600001450, 255)] := by decide

/-- 6: slots across the wrap, and the fill. -/
theorem test_slots_across_the_wrap :
    let w : Writer := { Writer.reset with ringBase := 0x00200000, producer := 65534, consumer := 65530 }
    Writer.slotAddr w 65534 = 0x002000E0 ∧ Writer.slotAddr w 65535 = 0x002000F0 ∧
    Writer.slotAddr w 0 = 0x00200000 ∧ Writer.fill w = 4 ∧ Writer.fill { w with producer := 1 } = 7 := by decide

/-- 11.3: a CONSUMER write of 43 against 30 with a fill of 12 is refused, and one of 42 is taken. -/
theorem test_consumer_writes :
    let s := withWriter .writing base
    let s' := { s with writer := { s.writer with producer := 42, consumer := 30 } }
    (after (.consumerWrite 43) s').flags.consumerRefused = true ∧ (after (.consumerWrite 43) s').writer = s'.writer ∧
    (after (.consumerWrite 42) s').writer.consumer = 42 := by decide

/-- 11.3: the ring level is reached from a fill of 12 on. -/
theorem test_ring_level :
    let w : Writer := { Writer.reset with ringLevel := 12, producer := 42, consumer := 30 }
    Writer.levelReached w = true ∧ Writer.levelReached { w with consumer := 31 } = false := by decide

/-- 3: a run whose deadline an increment of CLK reaches ends with TIMEOUT at once; an increment sent as a command leaves the
expiry to be taken. -/
theorem test_a_deadline_that_an_increment_reaches :
    (let t := after .timebaseIncrement (timed 1181 99)
     dueRuns t = [0] ∧ (t.ch 0).state = .averaging ∧ (after (.deadlineExpiry 0) t).queue = [0]) ∧
    (let t := clkCycle (timed 1181 99)
     t.timebase = 1181 ∧ t.divCount = 0 ∧ t.queue = [0] ∧ (t.ch 0).held.map (·.outcome) = some .timeout) ∧
    (let t := clkCycle (timed 1181 98)
     t.divCount = 99 ∧ (t.ch 0).state = .averaging) := by decide

/-- 8: the beats of reads return by turns and by the age of an ID, and a read waits for room. -/
theorem test_reads_return_by_turns :
    let s := reading .part
    let m := reading .memory
    let beat (id : BusId) := Instr.readDataReturn id 9 .okay true .sinceReset
    after (beat 1) m = m ∧ (after (beat 1) s).reads = s.reads.drop 1 ∧ after (beat 2) s = s ∧ after (beat 3) s = s ∧
    after (.partReadBeatsReturn (some 1)) s = s ∧
    (after (.partReadBeatsReturn (some 1)) m).trace = [.upReadBeat 2 7 .okay true] ∧
    (after .forwardedRead s).trace = [.downReadAddr 3 (offer 0 0 0).burst] ∧
    after (.forwardedReadArrival (offer 5 0 0)) s = s ∧
    (after (.forwardedReadArrival (offer 5 0 0)) (after .forwardedRead s)).reads.length = 5 := by decide

/-- 8: write responses return by turns and by the age of an ID. -/
theorem test_write_responses_return_by_turns :
    let s := writing .part
    let m := writing .memory
    let answer (id : BusId) := Instr.forwardedWriteResponse id .okay .sinceReset
    after (answer 1) m = m ∧ (after (answer 1) s).writes = s.writes.drop 1 ∧ after (answer 2) s = s ∧
    after (answer 3) s = s ∧ after (.liveWriteResponse (some 1)) s = s ∧
    (after (.liveWriteResponse (some 1)) m).trace = [.upWriteResp 2 .okay] ∧
    (after (.liveWriteResponse none) (after (.liveWriteResponse none) s)).writes = (s.writes.eraseIdx 1) := by decide

/-- 8: grants alternate, and the writer's data wait for the forwarded bursts granted before it that have data to send. -/
theorem test_write_grants :
    let s := { withFlight .record (.request true) base with writes := (writing .part).writes }
    let o := some (offer 5 0x08000000 0)
    let phase (t : State) := t.writer.flight.map (·.phase)
    (after (.downstreamWriteGrant o false) s).writes = s.writes ∧
    phase (after (.downstreamWriteGrant o false) s) = some (.data 1) ∧
    (after (.downstreamWriteGrant o true) s).writes.length = 6 ∧
    phase (after (.downstreamWriteGrant o true) s) = some (.request false) ∧
    after (.downstreamWriteGrant none true) s = s ∧
    phase (after (.downstreamWriteGrant (some (offer 5 0x01042000 0)) false) { s with lastGrant := .writer }) =
      some (.data 1) := by decide

/-- 6: an error response to the record write. -/
theorem test_a_writer_fault :
    let t := after (.writeErrorResponse .slverr .sinceReset) (withFlight .record .response base)
    t.writer.state = .fault ∧ t.writer.failed = .record ∧ t.writer.failResponse = some .slverr ∧
    t.writer.flight = none ∧ t.writer.producer = 40 := by decide

/-- 11.2: a release chains to step 61 with contact carried where touch is held. -/
theorem test_a_chain_with_contact_carried :
    let s := withFlight .producerWord .response
      { withRun { holding .pass with touchHeld := true } with queue := [0] }
    let t := after (.publication .sinceReset) s
    (t.ch 0).state = .settling ∧ (t.ch 0).step = 61 ∧ (t.ch 0).touchRun = 2 ∧ (t.ch 0).carried = true ∧
    (t.ch 0).runStart = 1180 ∧ (t.ch 0).deadline = some 2180 ∧ t.writer.producer = 41 ∧ t.queue = [] := by decide

/-- 11.2: a release chains to an entry that is not valid, and is refused; the refused verdict's release drains the
part. -/
theorem test_a_refused_chain :
    let h := { fields with nextStep := 63 }
    let c := { holding .pass with snapshot := some (snapOf h) }
    let t := after (.publication .sinceReset) (withFlight .producerWord .response { withRun c with queue := [0] })
    (t.ch 0).state = .holding ∧ (t.ch 0).step = 63 ∧ (t.ch 0).held.map (·.outcome) = some .chainRefused ∧
    t.queue = [0] ∧ (t.ch 0).chainSuppressed = true ∧ (t.ch 0).snapshot = none ∧
    (let r := after (.publication .sinceReset) (withFlight .producerWord .response t)
     (r.ch 0).state = .idle ∧ r.queue = [] ∧ r.flags.drained = true) := by decide

/-- 11.4: read B is held, the processor's read is not. -/
theorem test_held_reads :
    tripped.isHeldRead (offer 0x0140 0x0B000120 0) = true ∧ tripped.isHeldRead (offer 0x0002 0x0B000120 0) = false ∧
    base.isHeldRead (offer 0x0040 0x0B000100 0) = false ∧ tripped.isHeldRead (offer 0x0040 0x0B000800 0) = false := by
  decide

/-- 8: a live read of four beats covers DEVICE_FLAGS and clears it. -/
theorem test_a_live_read_of_the_flags :
    let t := after (.deviceFlagsRead (offer 2 0x01042000 3)) (raiseDrained base)
    t.flags = DeviceFlags.clear ∧ t.reads.map (fun e => (ReadEntry.values e).head?) = [some 0x0220FFFF00000040] := by
  decide

/-- 9: a plan reset over a record write is pending, and the OKAY completes it. -/
theorem test_a_pending_plan_reset :
    let s := withFlight .record .response { withRun (holding .pass) with queue := [0] }
    (after (.planReset 0) s).devResult = .pending ∧ (after (.planReset 0) s).resetPending = true ∧
    (let t := after (.planResetCompletion .okay .sinceReset) { s with resetPending := true }
     t.devResult = .done ∧ t.writer.state = .ready ∧ t.writer.producer = 0 ∧ t.queue = [] ∧ (t.ch 0).state = .idle) := by
  decide

/-- The lanes of an unaligned first beat of 32-bit size, and the addresses of a wrapping burst. -/
theorem test_beat_addresses :
    let b : Burst := { addr := 0x1006, len := 3, size := 2, type := .incr, attrs := plain }
    Burst.lanes b 0 = 0xC0 ∧ Burst.beatAddr b 1 = 0x1008 ∧ Burst.lanes b 1 = 0x0F ∧
    Burst.beatAddr { b with addr := 0x100C, type := .wrap } 1 = 0x1000 := by decide

/-! ### States and operands that meet the hypotheses of the statements, clause by clause -/

theorem test_meets_StepWithoutCommandIsOneClkCycle :
    (base.pending = [] ∧ { base with resetN := false }.resetN = false) ∧
    (let s := timed 1180 98
     s.pending = [] ∧ s.resetN = true ∧ s.divCount + 1 < s.timebaseDiv.toNat ∧ dueRuns s = [0]) ∧
    (let s := timed 1181 99
     s.pending = [] ∧ s.resetN = true ∧ s.timebaseDiv.toNat ≤ s.divCount + 1 ∧ dueRuns s = [] ∧
      dueRuns { s with timebase := s.timebase + 1 } = [0]) ∧
    (dueRuns (timed 1182 98) = [] ∧ dueRuns { timed 1182 99 with timebase := 1181 } = []) := by decide

theorem test_meets_EveryCommandAnswersNext :
    { base with resetN := false }.resetN = false ∧ Instr.timebaseIncrement ≠ .hardwareReset ∧
    ∀ straps, Instr.timebaseIncrement ≠ .resetNRelease straps := by
  refine ⟨by decide, by decide, fun straps h => nomatch h⟩

theorem test_meets_WordCommandsDoWhatTheirWordsDo :
    (wordWritten (.stepWordWrite 8190 6 1) = some (0x3FFD8, 1) ∧ wordWritten (.entry8191Write 7 1) = some (0x3FFFC, 1) ∧
      wordWritten (.inspectWrite 1) = some (0x4102C, 1) ∧ base.resetN = true) ∧
    (wordWritten (.chCmdUnknown 7 3 5) = some (0x4101C, 0x03000005) ∧
      wordWritten (.chCmdUnknown 7 0 5) = some (0x4101C, 5) ∧ wordWritten (.chCmdUnknown 7 2 5) = none ∧
      wordWritten (.devCmdUnknown 6 5) = some (0x41020, 0x06000005) ∧
      wordWritten (.devCmdUnknown 0 5) = some (0x41020, 5) ∧ wordWritten (.devCmdUnknown 5 5) = none) ∧
    (let a := (base.tap 0).cursor
     base.classify a = .sample 0 ∧ a.toNat % 4 = 0 ∧ base.classify (a - 4) = .sample 0 ∧ (a - 4).toNat % 4 = 0 ∧
      ¬ (15#4 = 15#4 ∧ a - 4 = a) ∧ 14#4 ≠ 0#4 ∧ ¬ (14#4 = 15#4 ∧ a = a)) ∧
    (let r := base.src 1
     base.classify r.cursor = .monitor 1 ∧ r.cursor.toNat % 4 = 0 ∧ r.half = none ∧
      base.classify (r.cursor + 4) = .monitor 1 ∧ ¬ (15#4 = 15#4 ∧ r.half = none ∧ r.cursor + 4 = r.cursor) ∧
      ¬ (15#4 = 15#4 ∧ r.half ≠ none ∧ r.cursor + 4 = r.cursor + 4) ∧ { r with half := some 5 }.half ≠ none) ∧
    (base.classify 0x01042000 = .live ∧ base.classify 0x01042100 = .passThrough ∧ base.classify 0x02000000 = .other) ∧
    (base.classify 0x0103FFFC = .step 0x3FFFC ∧ base.classify 0x01040000 = .config 0x40000 ∧
      base.classify 0x01041FFC = .command 0x41FFC) := by decide

theorem test_meets_ResetReleaseFixesTheApertureBase :
    { base with resetN := false }.resetN = false ∧ base.resetN = true ∧
    apertureOffset 0x10 0x01000000 = some 0 ∧ apertureOffset 0x10 0x010FFFFF = some 0xFFFFF ∧
    apertureOffset 0x10 0x01100000 = none ∧ apertureOffset 0x10 0x00FFFFFF = none := by decide

theorem test_meets_TimebaseIncrementCounts :
    (timed 1180 0).resetN = true ∧ dueRuns (timed 1180 0) = [0] ∧ dueRuns base = [] ∧
    ((timed 1180 0).ch 0).snapshot = some (snapOf fields) ∧ ((timed 1180 0).ch 0).contactSeen = true ∧
    1 ∉ dueRuns (timed 1180 0) := by decide

theorem test_meets_DeadlineExpiryEndsTheRun :
    let s := withRun { runIn .seeking fields with deadline := some 1180 }
    (s.resetN = true ∧ Channel.inFlight (s.ch 0) = true ∧ (s.ch 0).snapshot = some (snapOf fields) ∧
      (s.ch 0).deadline = some s.timebase) ∧
    (Channel.inFlight (s.ch 1) = false ∧ (withRun (runIn .seeking fields)).ch 0 ≠ s.ch 0 ∧
      ((withRun (runIn .seeking fields)).ch 0).deadline ≠ some s.timebase) := by decide

theorem test_meets_StepWordWriteEditsTheEntry : base.resetN = true ∧ (8189 : Nat) ≠ (8190 : Fin 8191).val := by decide

theorem test_meets_CommitChecksTheEntry :
    let passes (h : HostFields) : Prop := h.kind.toNat ≤ 5 ∧ h.avgCode.toNat ≤ 8 ∧ 1 ≤ h.contactRun.toNat ∧
      h.nextStep.toNat ≤ 8191 ∧ (h.limitMode = .fixed ∨ h.limitMode = .learn → h.lowLimit.toInt ≤ h.highLimit.toInt)
    base.resetN = true ∧ passes (base.entry 60).host ∧
    passes { fields with kind := 5, avgCode := 8, contactRun := 1, nextStep := 8191, lowLimit := 2100 } ∧
    ¬ passes { fields with kind := 6 } ∧ ¬ passes { fields with avgCode := 9 } ∧
    ¬ passes { fields with contactRun := 0 } ∧ ¬ passes { fields with nextStep := 8192 } ∧
    ¬ passes { fields with limitMode := .learn, lowLimit := 2101 } ∧
    passes { fields with limitMode := .lowOnly, lowLimit := 2101 } := by decide

theorem test_meets_Entry8191OnlyRaisesMisuse :
    base.resetN = true ∧ 15#4 ≠ 0#4 ∧ 1#4 ≠ 0#4 ∧ 1#4 ≠ 15#4 ∧ { base with inspect := 8191 }.inspect = 8191#13 := by
  decide

/-- The offsets that the statement on unassigned words names. -/
def unassignedAt (off : Nat) : Prop :=
  off % 4 = 0 ∧
    (0x42100 ≤ off ∨ 0x41030 ≤ off ∧ off < 0x42000 ∨ 0x40214 ≤ off ∧ off < 0x41000 ∨
      0x400E0 ≤ off ∧ off < 0x40100 ∨ 0x40140 ≤ off ∧ off < 0x40180 ∨ 0x40060 ≤ off ∧ off < 0x40080 ∨
      0x40030 ≤ off ∧ off < 0x40040 ∨ ∃ src : Fin 4, off = 0x4019C + src.val * 32)

theorem test_meets_MisusedWordsChangeNothingElse :
    base.resetN = true ∧ (0x41FFC#20).toNat % 4 = 0 ∧ (0x41FFC#20).toNat < 0x42000 ∧ 14#4 ≠ 0#4 ∧ 14#4 ≠ 15#4 ∧
    unassignedAt (0x42100#20).toNat ∧ unassignedAt (0xFFFFC#20).toNat ∧ unassignedAt (0x41030#20).toNat ∧
    unassignedAt (0x41FFC#20).toNat ∧ unassignedAt (0x40214#20).toNat ∧ unassignedAt (0x400FC#20).toNat ∧
    unassignedAt (0x4017C#20).toNat ∧ unassignedAt (0x40060#20).toNat ∧ unassignedAt (0x4003C#20).toNat ∧
    unassignedAt (0x4019C#20).toNat ∧ unassignedAt (0x401FC#20).toNat := by
  unfold unassignedAt
  refine ⟨?_, ?_, ?_, ?_, ?_, ?_, ?_, ?_, ?_, ?_, ?_, ?_, ?_, ?_, ?_, ?_⟩ <;> decide

theorem test_meets_PlainConfigurationWordsAreTaken : base.resetN = true := by decide

theorem test_meets_RingLevelIsTakenAndReached :
    let w := { (withWriter .off base).writer with ringLevel := 17, consumer := 24 }
    base.resetN = true ∧ 8#4 ≠ 0#4 ∧ 8#4 ≠ 15#4 ∧ fillOf w ≤ 2 ^ w.sizeCode.toNat ∧
    2 ^ w.sizeCode.toNat < w.ringLevel.toNat := by decide

theorem test_meets_CompensationWordsAreClamped :
    base.resetN = true ∧ (100001#32).toInt > 100000 ∧ (-100001#32).toInt < -100000 ∧
    (0 : Fin 24).val ≠ (5 : Fin 6).val * 4 + (3 : Fin 4).val := by decide

theorem test_meets_CheckedConfigurationWords :
    base.resetN = true ∧ (1 ≤ (1023#32).toNat ∧ (1023#32).toNat ≤ 1023) ∧ 1024 ≤ (1024#32).toNat ∧ (0#32).toNat = 0 ∧
    (1 ≤ (15#32).toNat ∧ (15#32).toNat ≤ 15 ∧ base.boardOpen = false ∧ ∀ ch, (base.ch ch).state = .idle) ∧
    16 ≤ (16#32).toNat ∧ { base with boardOpen := true }.boardOpen = true ∧
    (∃ ch, ((withRun (holding .pass)).ch ch).state ≠ .idle) ∧ (6 : Fin 8) ≠ 7 := by decide

theorem test_meets_SampleWindowWords :
    base.resetN = true ∧ (base.ch 7).state = .idle ∧ ((withRun (holding .pass)).ch 0).state ≠ .idle := by decide

theorem test_meets_SourceWordsAreTaken : base.resetN = true ∧ (0x3#32).getLsbD 0 = true := by decide

theorem test_meets_RingConfigurationWords :
    base.resetN = true ∧ base.writer.state = .off ∧ (withWriter .fault base).writer.state ≠ .off := by decide

theorem test_meets_RingControlEnablesAndDisables :
    let ok (w : Writer) : Prop := 4 ≤ w.sizeCode.toNat ∧ w.sizeCode.toNat ≤ 12 ∧
      w.ringBase.toNat % (2 ^ w.sizeCode.toNat * 16) = 0
    let s := withWriter .off { withRun (holding .pass) with queue := [0] }
    let full := { s.writer with consumer := 24 }
    s.resetN = true ∧ s.writer.state = .off ∧ ok s.writer ∧ ok { s.writer with sizeCode := 12 } ∧
    ¬ ok { s.writer with sizeCode := 3 } ∧ ¬ ok { s.writer with sizeCode := 13 } ∧
    ¬ ok { s.writer with ringBase := 0x00200080 } ∧ base.queue = [] ∧ 2 ^ full.sizeCode.toNat ≤ fillOf full ∧
    (s.queue = 0 :: [] ∧ (s.ch 0).held = some (verdictOf .pass) ∧ fillOf s.writer < 2 ^ s.writer.sizeCode.toNat) ∧
    (withWriter .ready base).writer.state = .ready ∧ (withWriter .writing base).writer.state = .writing ∧
    (withWriter .fault base).writer.state = .fault := by decide

theorem test_meets_ArmStartsARunOrAnswersTheFirstRefusal :
    let idle (s : State) : Prop := s.resetN = true ∧ s.resetPending = false ∧ (s.ch 0).state = .idle
    { base with resetPending := true }.resetPending = true ∧ (withRun (holding .pass)).resetPending = false ∧
    ((withRun (holding .pass)).ch 0).state ≠ .idle ∧ idle base ∧ 8191 ≤ (8191#24).toNat ∧ (8190#24).toNat < 8191 ∧
    (base.entry 8190).valid = false ∧ idle tripped ∧ (tripped.entry 60).valid = true ∧
    (tripped.src (tripped.entry 60).host.source).trips.overI = true ∧ (base.entry 60).valid = true ∧
    (base.src (base.entry 60).host.source).trips = { overI := false, overV := false, overP := false } := by decide

theorem test_meets_AbortEndsOrSuppresses :
    (base.resetN = true ∧ (base.ch 0).state = .idle) ∧ ((withRun (holding .pass)).ch 0).state = .holding ∧
    (Channel.inFlight ((withRun (runIn .seeking fields)).ch 0) = true ∧
      ((withRun (runIn .seeking fields)).ch 0).snapshot = some (snapOf fields)) := by decide

theorem test_meets_UnknownAndBusyCommands :
    base.resetN = true ∧ ((0#8).toNat ≠ 1 ∧ (0#8).toNat ≠ 2) ∧ ((3#8).toNat ≠ 1 ∧ (3#8).toNat ≠ 2) ∧
    (0#8).toNat = 0 ∧ 6 ≤ (6#8).toNat ∧ base.resetPending = false ∧
    { base with resetPending := true }.resetPending = true := by decide

theorem test_meets_PlanResetPendsOrCompletes :
    let s := withFlight .record .response base
    (base.resetN = true ∧ Table.wf base.table = true) ∧ (s.resetPending = false ∧ s.writer.state = .writing) ∧
    (base.resetPending = false ∧ base.writer.state ≠ .writing) ∧ (withWriter .fault base).writer.state ≠ .writing ∧
    ({ s with resetPending := true }.resetPending = true ∧
      s.writer.flight.map (fun f => (f.kind, f.phase)) = some (.record, .response)) ∧
    (withFlight .producerWord .response base).writer.flight.map (fun f => (f.kind, f.phase)) =
      some (.producerWord, .response) := by decide

theorem test_meets_BoardCommandsCheckInOrder :
    let opened := { base with boardOpen := true, board := 44 }
    let quiet (s : State) : Prop := (∀ ch, (s.ch ch).state = .idle) ∧ s.queue = []
    base.resetN = true ∧ base.resetPending = false ∧ 65535 ≤ (65535#24).toNat ∧ (65534#24).toNat < 65535 ∧
    opened.boardOpen = true ∧ base.boardOpen = false ∧ quiet base ∧ quiet opened ∧
    ¬ quiet (withRun (runIn .seeking fields)) := by decide

theorem test_meets_LearnClearClearsRecords :
    base.resetN = true ∧ base.resetPending = false ∧ Table.wf base.table = true ∧ (8190#24).toNat ≤ 8190 ∧
    (8189 : Nat) ≠ (8190#24).toNat ∧ 8191 ≤ (8191#24).toNat ∧ 8191#24 ≠ 0xFFFFFF#24 ∧
    0xFFFFFE#24 ≠ 0xFFFFFF#24 := by decide

theorem test_meets_GuardClearEmptiesSelectedSources :
    tripped.resetN = true ∧ tripped.resetPending = false ∧ (2#24).getLsbD (1 : SrcNo).val = true ∧
    (1#24).getLsbD (1 : SrcNo).val = false ∧ (tripped.src 1).holdEnable = true ∧
    TripSet.nonempty (tripped.src 1).trips = true := by decide

theorem test_meets_ConsumerMovesWithinTheFill :
    let s := withWriter .ready { withRun (holding .pass) with queue := [0] }
    let d (v : Word) : Nat := ((v.setWidth 16).toNat + 65536 - s.writer.consumer.toNat) % 65536
    let full := { s.writer with consumer := 23 }
    s.resetN = true ∧ fillOf s.writer < d 41 ∧ d 40 ≤ fillOf s.writer ∧
    (withWriter .off base).writer.state ≠ .ready ∧ (withWriter .ready base).queue = [] ∧
    (s.writer.state = .ready ∧ s.queue = 0 :: [] ∧ (s.ch 0).held = some (verdictOf .pass)) ∧
    fillOf { s.writer with consumer := 40 } < 2 ^ s.writer.sizeCode.toNat ∧
    2 ^ full.sizeCode.toNat ≤ fillOf { full with consumer := 24 } := by decide

theorem test_meets_TempMovesTheBand :
    let b : BandSelector := { base.band with t1 := 250, t2 := 400, t3 := 550 }
    let ordered (b : BandSelector) : Prop := b.t1.toInt < b.t2.toInt ∧ b.t2.toInt < b.t3.toInt
    base.resetN = true ∧ ¬ ordered base.band ∧ ¬ ordered { b with t3 := 400 } ∧ ordered b ∧
    ∀ x ∈ [Band.a, .b, .c, .d], ({ b with current := x } : BandSelector).current = x := by decide

theorem test_meets_InspectSetsThePointer :
    base.resetN = true ∧ 7#4 ≠ 0#4 ∧ 7#4 ≠ 15#4 ∧ Instr.forwardedRead ≠ .hardwareReset ∧
    (∀ v, Instr.forwardedRead ≠ .inspectWrite v) ∧ (∀ d m, Instr.forwardedRead ≠ .forwardedWriteBeat d m) ∧
    exec .forwardedRead base = .next base := by
  refine ⟨by decide, by decide, by decide, by decide, fun v h => (nomatch h), fun d m h => (nomatch h), rfl⟩

/-- The word at channel 0's cursor is a sample of its window; a word off the cursor, and a partial word at it, are
strays. -/
def samplePlaces (s : State) : Bool :=
  s.resetN && s.classify (s.tap 0).cursor == .sample 0 && s.classify 0x08000000 == .sample 0 &&
    decide ((0x08000000#32).toNat % 4 = 0 ∧ ¬ (15#4 = 15#4 ∧ 0x08000000#32 = (s.tap 0).cursor)) &&
    decide ((s.tap 0).cursor.toNat % 4 = 0 ∧ 14#4 ≠ 0#4 ∧ ¬ (14#4 = 15#4 ∧ (s.tap 0).cursor = (s.tap 0).cursor))

theorem test_meets_SamplesOutsideARunAndWhileSeeking :
    let s := withRun { runIn .seeking fields with touchRun := 1 }
    let s' := withRun (runIn .seeking fields)
    (samplePlaces base = true ∧ (base.ch 0).state = .idle) ∧
    (samplePlaces (withRun (holding .pass)) = true ∧ ((withRun (holding .pass)).ch 0).state = .holding) ∧
    (samplePlaces s = true ∧ (s.ch 0).state = .seeking ∧ (s.ch 0).snapshot = some (snapOf fields)) ∧
    (0x10000000#32).getLsbD 28 = true ∧ (0x0FFFFFFF#32).getLsbD 28 = false ∧
    (s.ch 0).touchRun + 1 = fields.contactRun.toNat ∧ (s'.ch 0).touchRun + 1 ≠ fields.contactRun.toNat := by decide

theorem test_meets_SamplesWhileSettling :
    let s (k : Nat) := withRun { runIn .settling fields with settleLeft := k }
    samplePlaces (s 2) = true ∧ ((s 2).ch 0).state = .settling ∧ ((s 2).ch 0).snapshot = some (snapOf fields) ∧
    2 ≤ ((s 2).ch 0).settleLeft ∧ ((s 1).ch 0).settleLeft = 1 := by decide

theorem test_meets_SamplesWhileAveraging :
    let s (k : Nat) (r : Option (BitVec 3)) := withRun { runIn .averaging fields with averaged := k, firstRange := r }
    samplePlaces (s 0 none) = true ∧ ((s 0 none).ch 0).state = .averaging ∧
    ((s 0 none).ch 0).snapshot = some (snapOf fields) ∧ ((s 0 none).ch 0).firstRange = none ∧
    ((s 1 (some 7)).ch 0).firstRange = some ((0x17000000#32).extractLsb' 24 3) ∧
    (∃ r, ((s 1 (some 6)).ch 0).firstRange = some r ∧ r ≠ (0x17000000#32).extractLsb' 24 3) ∧
    ((s 0 none).ch 0).averaged + 1 ≠ 2 ^ fields.avgCode.toNat := by decide

theorem test_meets_TheCompletingSampleJudgesTheSet :
    let h := { fields with spreadLimit := 4 }
    let s := withRun { runIn .averaging h with averaged := 1, firstRange := some 0 }
    samplePlaces s = true ∧ (s.ch 0).state = .averaging ∧ (s.ch 0).snapshot = some (snapOf h) ∧
    (s.ch 0).averaged + 1 = 2 ^ h.avgCode.toNat ∧ (s.ch 0).firstRange = some ((0x10000005#32).extractLsb' 24 3) ∧
    (h.spreadLimit.toNat ≠ 0 ∧ h.spreadLimit.toNat < 5) ∧ 4 ≤ h.spreadLimit.toNat ∧ fields.spreadLimit.toNat = 0 ∧
    h.kind.toNat = (0 : Fin 6).val := by decide

theorem test_meets_FixedAndOneSidedJudgement :
    fields.limitMode = .fixed ∧ (1899 : Int) < fields.lowLimit.toInt ∧ fields.highLimit.toInt < 2101 ∧
    ¬ (2101 : Int) < fields.lowLimit.toInt ∧ fields.lowLimit.toInt ≤ 1900 ∧ (2100 : Int) ≤ fields.highLimit.toInt ∧
    HostFields.passesCommit fields = true ∧ HostFields.passesCommit { fields with highLimit := 1900 } = true ∧
    { fields with limitMode := .lowOnly }.limitMode = .lowOnly ∧
    { fields with limitMode := .highOnly }.limitMode = .highOnly := by decide

theorem test_meets_LearningAndDerivation :
    let s := { base with boardOpen := true, board := 22 }
    let r (count : Nat) (board : BitVec 16) (d : Bool) : LearnRecord :=
      { LearnRecord.cleared with count := count, lastBoard := board, derived := d }
    { fields with limitMode := .learn }.limitMode = .learn ∧ (snapOf fields).generation = (s.entry 60).generation ∧
    { snapOf fields with generation := 7 }.generation ≠ (s.entry 60).generation ∧
    ((r 3 21 false).derived = false ∧ s.learnTarget.toNat ≤ (r 3 21 false).count) ∧ (r 3 21 true).derived = true ∧
    base.boardOpen = false ∧ s.boardOpen = true ∧
    ¬ (fields.lowLimit.toInt ≤ 1899 ∧ (1899 : Int) ≤ fields.highLimit.toInt) ∧
    (fields.lowLimit.toInt ≤ 1900 ∧ (1900 : Int) ≤ fields.highLimit.toInt) ∧
    (1 ≤ (r 1 22 false).count ∧ (r 1 22 false).lastBoard = s.board) ∧
    ¬ (1 ≤ (r 1 21 false).count ∧ (r 1 21 false).lastBoard = s.board) ∧ 1 ≤ (r 1 21 false).count := by decide

theorem test_meets_LargeToleranceIsUsedAsOneMillion :
    let sn := snapOf { fields with limitMode := .learn }
    let s (count : Nat) (board : BitVec 16) : State :=
      { base.setEntry 60 { base.entry 60 with learn := { LearnRecord.cleared with count := count, lastBoard := board } }
        with boardOpen := true, board := 22 }
    let learn (count : Nat) (board : BitVec 16) : LearnRecord := ((s count board).entry 60).learn
    ((1000000#32).toNat ≤ 1000000 ∧ 1000000 < (1000001#32).toNat ∧ base.resetN = true ∧ fields.limitMode ≠ .learn) ∧
    (sn.host.limitMode = .learn ∧ sn.generation = ((s 3 21).entry 60).generation ∧ (learn 3 21).derived = false ∧
      (s 3 21).learnTarget.toNat ≤ (learn 3 21).count) ∧
    ((learn 2 21).count < (s 2 21).learnTarget.toNat ∧ (s 2 21).boardOpen = true ∧ fields.lowLimit.toInt ≤ 2000 ∧
      (2000 : Int) ≤ fields.highLimit.toInt ∧ (learn 2 21).lastBoard ≠ (s 2 21).board ∧
      (learn 2 21).count + 1 = (s 2 21).learnTarget.toNat) ∧
    ((learn 1 22).lastBoard = (s 1 22).board ∧ (learn 1 22).count + 1 ≠ (s 1 22).learnTarget.toNat) ∧
    base.inspect ≠ 8191#13 := by decide

theorem test_meets_MonitorWordsFillOrStray :
    let s := base.setSrc 1 { base.src 1 with half := some 5 }
    base.resetN = true ∧ base.classify (base.src 1).cursor = .monitor 1 ∧ (base.src 1).half = none ∧
    (base.classify 0x0900001C = .monitor 1 ∧ (0x0900001C#32).toNat % 4 = 0 ∧
      ¬ (15#4 = 15#4 ∧ (base.src 1).half = none ∧ 0x0900001C#32 = (base.src 1).cursor) ∧
      ¬ (15#4 = 15#4 ∧ (base.src 1).half ≠ none ∧ 0x0900001C#32 = (base.src 1).cursor + 4)) ∧
    (s.classify (s.src 1).cursor = .monitor 1 ∧ (s.src 1).half ≠ none ∧
      ¬ (15#4 = 15#4 ∧ (s.src 1).cursor = (s.src 1).cursor + 4)) ∧ 1#4 ≠ 0#4 ∧ 1#4 ≠ 15#4 := by decide

theorem test_meets_ComparedValuesFollowTheMode :
    let p : Pair := { voltage := 1, current := 2 }
    let r : Source := { Source.reset with mode := .avg4, history := [p, p, p, p] }
    Source.reset.mode = .each ∧ (r.mode = .avg4 ∧ r.history = [p, p, p, p]) ∧
    { r with history := [p, p, p] }.history.length ≠ 4 ∧ [p, p, p].length < 4 ∧ [p, p, p].length = 3 ∧
    Source.compared r p = some (1, 2) ∧ Source.compared { r with history := [p, p, p] } p = none := by decide

theorem test_meets_PairArrivalTripsThenMeters :
    let s := withRun { runIn .averaging fields with charge := 45000000 }
    let s' := s.setSrc 1 { s.src 1 with half := some 3000 }
    let p (i : Word) : Pair := { voltage := 3000, current := i }
    (s'.resetN = true ∧ (s'.src 1).half = some 3000 ∧ s'.classify ((s'.src 1).cursor + 4) = .monitor 1) ∧
    ((s'.ch 0).snapshot = some (snapOf fields) ∧ Channel.inFlight (s'.ch 0) = true ∧ fields.source = 1) ∧
    TripSet.nonempty (s'.src 1).trips = false ∧ TripSet.nonempty (Source.found (s'.src 1) (p 150001)) = true ∧
    TripSet.nonempty (Source.found (s'.src 1) (p 150000)) = false ∧ (s'.src 1).period.toNat ≠ 0 ∧
    (s'.src 0).period.toNat = 0 ∧ fields.budget.toNat ≠ 0 ∧ HostFields.reset.budget.toNat = 0 ∧
    45000000 + 100000 * (s'.src 1).period.toNat ≤ fields.budget.toNat * 10000 ∧
    fields.budget.toNat * 10000 < 45000000 + 100001 * (s'.src 1).period.toNat ∧ (s'.ch 1).snapshot = none ∧
    (let t := after (.pairArrival 1 150001) (withWriter .ready s')
     t.queue = 0 :: [] ∧ t.writer.state = .writing ∧ t.entry 60 = { entryOf fields with runs := 0 }) := by decide +kernel

theorem test_meets_ChargeExcessEndsTheRun :
    let s := withRun { runIn .averaging fields with charge := 45000000 }
    let charge (i : Word) : BitVec 48 :=
      BitVec.ofNat 48 (min ((s.ch 0).charge.toNat + i.toInt.natAbs * (s.src fields.source).period.toNat) (2 ^ 48 - 1))
    s.resetN = true ∧ Channel.inFlight (s.ch 0) = true ∧ (s.ch 0).snapshot = some (snapOf fields) ∧
    ((s.src fields.source).len.toNat ≠ 0 ∧ (s.src fields.source).period.toNat ≠ 0 ∧ fields.budget.toNat ≠ 0 ∧
      fields.budget.toNat * 10000 < (charge (-100001)).toNat) ∧
    ¬ fields.budget.toNat * 10000 < (charge 100000).toNat := by decide

theorem test_meets_WriterBeginsContinuesAndFaults :
    let s := withWriter .ready { withRun (holding .pass) with queue := [0] }
    let full := { s.writer with consumer := 24 }
    (s.resetN = true ∧ s.queue = 0 :: [] ∧ (s.ch 0).held = some (verdictOf .pass) ∧ s.writer.state = .ready ∧
      fillOf s.writer < 2 ^ s.writer.sizeCode.toNat) ∧
    2 ^ full.sizeCode.toNat ≤ fillOf full ∧ base.queue = [] ∧ base.writer.state ≠ .ready ∧
    base.writer.state ≠ .writing ∧
    ((withFlight .record .response base).resetPending = false ∧
      (withFlight .record .response base).writer.state = .writing ∧
      (withFlight .record .response base).writer.flight.map (fun f => (f.kind, f.phase)) =
        some (.record, .response)) ∧
    (let awaits (s : State) (k : WriteKind) : Bool := s.writer.state == .writing &&
       s.writer.flight.any fun f => f.kind == k && f.phase == .response
     awaits (withFlight .record .response base) .producerWord = false ∧
      awaits (withFlight .producerWord .response base) .record = false ∧
      awaits (withFlight .record (.request true) base) .record = false ∧
      awaits (withFlight .producerWord (.data 1) base) .producerWord = false ∧ awaits base .record = false) := by decide

/-- 6: an OKAY to the other write, and a response before the data have gone, are not taken. -/
theorem test_a_response_that_is_not_awaited :
    let r := withFlight .record .response base
    let p := withFlight .producerWord .response base
    let d := withFlight .record (.data 1) base
    after (.publication .sinceReset) r = r ∧ after (.recordWriteOkay .sinceReset) p = p ∧
    after (.recordWriteOkay .sinceReset) d = d ∧ after (.writeErrorResponse .slverr .sinceReset) d = d ∧
    after (.planResetCompletion .okay .sinceReset) r = r := by decide

/-- The hypotheses of the statement on PUBLICATION, and the fields that its cases turn on. -/
theorem test_meets_PublicationReleasesTheHead :
    let s (c : Channel) := withFlight .producerWord .response { withRun c with queue := [0] }
    let h (n : BitVec 16) (p : ChainPolicy) := { fields with nextStep := n, policy := p }
    (let t := s (holding .pass)
     t.resetN = true ∧ t.resetPending = false ∧ t.writer.state = .writing ∧
      t.writer.flight.map (fun f => (f.kind, f.phase)) = some (.producerWord, .response) ∧ t.queue = 0 :: [] ∧
      (t.ch 0).snapshot = some (snapOf fields) ∧ (t.ch 0).held = some (verdictOf .pass) ∧
      (t.ch 0).chainSuppressed = false ∧ fields.nextStep ≠ 8191#16 ∧ fields.policy = .always ∧
      (t.entry 61).valid = true ∧ TripSet.nonempty (t.src (t.entry 61).host.source).trips = false ∧
      (t.entry 63).valid = false) ∧
    (h 8191 .never).nextStep.toNat ≤ 8191 ∧ (h 8191 .never).nextStep = 8191#16 ∧
    ((s { holding .pass with touchHeld := true }).ch 0).touchHeld = true ∧
    (let t := s { holding .chainRefused with snapshot := none, chainSuppressed := true }
     t.queue = 0 :: [] ∧ (t.ch 0).held = some (verdictOf .chainRefused) ∧ (t.ch 0).snapshot = none ∧
      (t.ch 0).chainSuppressed = true ∧ ∀ j, j ≠ 0 → (t.ch j).state = .idle) ∧
    (let w : Writer := { (withWriter .ready base).writer with producer := 41 }
     2 ^ w.sizeCode.toNat ≤ fillOf w ∧ fillOf { w with consumer := 26 } < 2 ^ w.sizeCode.toNat) := by decide

theorem test_meets_WordsAreClassifiedByPrecedence :
    base.apBase.toNat * 0x100000 = 0x01000000 ∧
    base.classify 0x0103FFFC = .step 0x3FFFC ∧ base.classify 0x01040000 = .config 0x40000 ∧
    base.classify 0x01041000 = .command 0x41000 ∧ base.classify 0x01042000 = .live ∧
    base.classify 0x010420FC = .live ∧ base.classify 0x01042100 = .passThrough ∧
    base.classify 0x010FFFFC = .passThrough ∧ base.classify 0x00FFFFFC = .other ∧
    base.classify 0x08000014 = .sample 0 ∧ base.classify 0x08000018 = .other ∧
    base.classify 0x0900001C = .monitor 1 ∧ base.classify 0x09000020 = .other := by decide

theorem test_meets_ReadsArriveByTheirClass :
    let s := tripped
    let room (s : State) : Prop := s.reads.length < 32 ∧ ∀ e, e ∈ s.reads → e.kind ≠ .forwarded false
    (s.resetN = true ∧ room s ∧ s.readClass (offer 2 0x010420F8 0) = .live ∧
      Burst.coversFlags s.apBase (offer 2 0x010420F8 0).burst = false) ∧
    Burst.coversFlags s.apBase (offer 2 0x01042000 0).burst = true ∧
    s.readClass (offer 2 0x01041FF8 1) = .live ∧ s.readClass (offer 0x0140 0x0B0007F8 0) = .held ∧
    s.readClass (offer 0x0140 0x0B000800 0) = .forwarded ∧ room { s with reads := List.replicate 31 (read 0 (.held 0)) } ∧
    ¬ room { s with reads := List.replicate 32 (read 0 (.held 0)) } ∧ ¬ room (reading .part) := by decide

/-- A part entry that is the oldest of its ID is in the read list. -/
def partReads (s : State) : Prop :=
  ∃ pre e post, s.reads = pre ++ e :: post ∧ (∀ taken, e.kind ≠ .forwarded taken) ∧ ∀ d, d ∈ pre → d.id ≠ e.id

theorem partReads_iff (s : State) : (readyRead [] s.reads).isSome = true ↔ partReads s := by
  rw [readyRead_isSome]
  simp only [byPart_iff, List.not_mem_nil, not_false_eq_true, true_and, partReads]

/-- A beat of memory counts for an ID. -/
def readCounts (s : State) (id : BusId) : Prop :=
  ∃ pre e post, s.reads = pre ++ e :: post ∧ e.id = id ∧ e.kind = .forwarded true ∧ ∀ d, d ∈ pre → d.id ≠ id

theorem test_meets_ReadsReturnInOrder :
    let s := reading .part
    let m := reading .memory
    let behind := { s with reads := [read 1 (.forwarded true), read 1 (.held 5)] }
    (s.resetN = true ∧ m.resetN = true ∧ behind.resetN = true) ∧
    (s.reads = s.reads.take 3 ++ read 3 (.forwarded false) :: [] ∧
      ∀ d, d ∈ s.reads.take 3 → d.kind ≠ .forwarded false) ∧
    (∀ e, e ∈ behind.reads → e.kind ≠ .forwarded false) ∧
    (s.reads = [] ++ read 1 (.forwarded true) :: s.reads.drop 1 ∧ s.servedRead = .part ∧ ¬ partReads behind) ∧
    (¬ readCounts s 2 ∧ ¬ readCounts s 3 ∧ partReads m ∧ m.servedRead = .memory) ∧
    (m.reads = [read 1 (.forwarded true)] ++ read 2 (.live [7]) :: m.reads.drop 2 ∧
      ∀ d, d ∈ [read 1 (.forwarded true)] → d.kind = .forwarded true ∧ d.id ≠ 2) ∧
    (∀ id, some 2 = some id → ¬ readCounts s id) ∧ (s.servedRead = .part ∧ readCounts s 1) := by
  refine ⟨by decide, by decide, by decide, ⟨by decide, by decide, ?_⟩, ⟨?_, ?_, ?_, by decide⟩, by decide, ?_,
    by decide, ?_⟩
  · rw [← partReads_iff]; decide
  · exact mt (memoryReadCounts_iff _ _).2 (by decide)
  · exact mt (memoryReadCounts_iff _ _).2 (by decide)
  · rw [← partReads_iff]; decide
  · intro id h; cases h; exact mt (memoryReadCounts_iff _ _).2 (by decide)
  · exact (memoryReadCounts_iff _ _).1 (by decide)

theorem test_meets_LiveWritesOnlyRaiseMisuse :
    let e : WriteEntry := { id := 3, burst := (offer 0 0x01042000 1).burst, kind := .live false, arrived := 1 }
    let d : WriteEntry := { id := 2, burst := (offer 0 0x08000000 0).burst, kind := .forwarded, arrived := 1 }
    base.resetN = true ∧ base.writes.length < 32 ∧ Burst.touchesLive base.apBase (offer 0 0x01041FF8 1).burst = true ∧
    d.burst.len.toNat + 1 ≤ d.arrived ∧ e.arrived ≤ e.burst.len.toNat ∧
    (0x80#8 &&& Burst.lanes e.burst e.arrived ≠ 0#8 ∧
      inLiveArea base.apBase (Burst.beatAddr e.burst e.arrived) = true) ∧
    ¬ (0#8 &&& Burst.lanes e.burst e.arrived ≠ 0#8) := by decide

/-- A LIVE entry whose data have arrived and that is the oldest of its ID is in the write list. -/
def liveResponses (s : State) : Prop :=
  ∃ pre e post, s.writes = pre ++ e :: post ∧ (∃ flagged, e.kind = .live flagged) ∧
    e.burst.len.toNat + 1 ≤ e.arrived ∧ ∀ d, d ∈ pre → d.id ≠ e.id

theorem liveResponses_iff (s : State) : (readyWrite [] s.writes).isSome = true ↔ liveResponses s := by
  rw [readyWrite_isSome]
  simp only [isLive_iff, complete_iff, List.not_mem_nil, not_false_eq_true, true_and, liveResponses]

/-- A response of memory counts for an ID. -/
def respCounts (s : State) (id : BusId) : Prop :=
  ∃ pre e post, s.writes = pre ++ e :: post ∧ e.id = id ∧ e.kind = .forwarded ∧
    e.burst.len.toNat + 1 ≤ e.arrived ∧ ∀ d, d ∈ pre → d.id ≠ id

theorem test_meets_WriteResponsesReturnInOrder :
    let s := writing .part
    let m := writing .memory
    let behind := { s with writes := [write 1 .forwarded 1, write 1 (.live true) 1, write 4 (.live true) 0] }
    (s.resetN = true ∧ m.resetN = true ∧ behind.resetN = true) ∧
    (s.writes = [] ++ write 1 .forwarded 1 :: s.writes.drop 1 ∧ s.servedResp = .part ∧ ¬ liveResponses behind) ∧
    (¬ respCounts s 2 ∧ ¬ respCounts s 3 ∧ liveResponses m ∧ m.servedResp = .memory) ∧
    (m.writes = [write 1 .forwarded 1] ++ write 2 (.live true) 1 :: m.writes.drop 2 ∧
      ∀ d, d ∈ [write 1 .forwarded 1] → d.kind = .forwarded ∧ d.id ≠ 2) ∧
    (∀ id, some 3 = some id → ¬ respCounts s id) ∧ (s.servedResp = .part ∧ respCounts s 1) := by
  refine ⟨by decide, ⟨by decide, by decide, ?_⟩, ⟨?_, ?_, ?_, by decide⟩, by decide, ?_, by decide, ?_⟩
  · rw [← liveResponses_iff]; decide
  · exact mt (memoryRespCounts_iff _ _).2 (by decide)
  · exact mt (memoryRespCounts_iff _ _).2 (by decide)
  · rw [← liveResponses_iff]; decide
  · intro id h; cases h; exact mt (memoryRespCounts_iff _ _).2 (by decide)
  · exact (memoryRespCounts_iff _ _).1 (by decide)

theorem test_meets_TheWriteArbiterAlternates :
    let s (fresh : Bool) := withFlight .record (.request fresh) base
    let offered (o : Option Offer) (s : State) (x : Offer) : Prop :=
      o = some x ∧ Burst.touchesLive s.apBase x.burst = false ∧ s.writes.length < 32
    let requests (before : Bool) (s : State) (f : Flight) : Prop :=
      s.writer.flight = some f ∧ ∃ fresh, f.phase = .request fresh ∧ ¬ (before = true ∧ fresh = true)
    let x := offer 5 0x08000000 0
    let full := { s true with writes := List.replicate 32 (write 1 .forwarded 1) }
    let ahead (s : State) : Nat := (s.writes.filter fun e =>
      decide (e.kind = .forwarded ∧ e.arrived ≤ e.burst.len.toNat)).length
    (offered (some x) (s true) x ∧ (s true).resetN = true) ∧
    ((∀ f, ¬ requests true (s true) f) ∧ (∀ f, ¬ requests false base f) ∧ base.lastGrant = .forwarded) ∧
    ((∃ f, requests false (s true) f) ∧ (∃ f, requests true (s false) f)) ∧
    ((∀ y, ¬ offered none (s true) y) ∧ (∀ y, ¬ offered (some (offer 5 0x01042000 0)) (s true) y) ∧
      ∀ y, ¬ offered (some x) full y) ∧
    { s true with lastGrant := .writer }.lastGrant = .writer ∧ ahead base = 0 ∧ ahead (writing .part) = 1 := by
  refine ⟨by decide, ⟨?_, ?_, by decide⟩, ⟨⟨_, rfl, true, rfl, by decide⟩, ⟨_, rfl, false, rfl, by decide⟩⟩,
    ⟨?_, ?_, ?_⟩, by decide, by decide, by decide⟩
  · rintro f ⟨h, fresh, h2, h3⟩
    cases h
    cases h2
    exact h3 ⟨rfl, rfl⟩
  · rintro f ⟨h, _⟩
    cases h
  · rintro y ⟨h, _⟩
    cases h
  · rintro y ⟨h, h2, _⟩
    cases h
    exact absurd h2 (by decide)
  · rintro y ⟨_, _, h⟩
    exact absurd h (by decide)

theorem test_meets_ForwardedBeatsHandTheirWords :
    let e (k : Nat) : WriteEntry := { id := 2, burst := (offer 0 0x08000000 1).burst, kind := .forwarded, arrived := k }
    base.resetN = true ∧ (e 0).arrived < (e 0).burst.len.toNat ∧ (e 1).arrived = (e 1).burst.len.toNat ∧
    (e 2).burst.len.toNat + 1 ≤ (e 2).arrived ∧ base.writer.flight = none ∧
    (withFlight .record (.data 1) base).writer.flight.map (·.phase) = some (.data (0 + 1)) ∧
    (withFlight .record (.data 2) base).writer.flight.map (·.phase) = some (.data (1 + 1)) := by decide

theorem test_meets_BeatAddressesFollowTheBurst :
    let b (t : BurstType) : Burst := { (offer 0 0x1008 3).burst with type := t }
    3 ≤ (b .wrap).len.toNat ∧ (b .fixed).type = .fixed ∧ (b .incr).type = .incr ∧
    ((b .wrap).type = .wrap ∧ (b .wrap).addr.toNat % 2 ^ (b .wrap).size.val = 0) := by decide

theorem test_meets_LiveWordsHoldTheirFields :
    fillOf base.writer ≤ 4096 ∧ base.queue.length ≤ 8 ∧ (∀ src, (base.src src).history.length ≤ 4) ∧
    base.inspect ≠ 8191#13 ∧ (base.entry 0).learn.count ≤ 15 ∧ (base.entry 0).runs ≤ 8 ∧
    { base with inspect := 8191 }.inspect = 8191#13 ∧
    (let offset (a : Addr) : Int := (a.toNat : Int) - base.apBase.toNat * 0x100000
     (0x42000 + 8 * (31 : Fin 32).val ≤ offset 0x010420FC ∧ offset 0x010420FC < 0x42008 + 8 * (31 : Fin 32).val) ∧
      0x42000 ≤ offset 0x01042000 ∧ offset 0x01041FFF < 0x42000 ∧ 0x42100 ≤ offset 0x01042100) := by decide

/-- A part with a run in AVERAGING on channel 0. -/
def running : State := withRun (runIn .averaging fields)

theorem running_entry (n : Nat) : running.entry n =
    if 60 = n then { entryOf fields with runs := 1 } else if 61 = n then entryOf fields else Entry.reset := rfl

theorem running_snapshot (ch : ChanNo) (sn : Snapshot) (h : (running.ch ch).snapshot = some sn) :
    ch = 0 ∧ sn = snapOf fields := by
  fin_cases ch <;> first | exact ⟨rfl, (Option.some.inj h).symm⟩ | exact nomatch h

theorem test_meets_the_table_and_run_invariants : TableInv running ∧ RunsInv running := by
  refine ⟨⟨by decide, fun n h => ?_, fun ch sn h => ?_⟩, fun n => ?_⟩
  · rw [running_entry, if_neg (by omega), if_neg (by omega)]
  · rw [(running_snapshot ch sn h).2]; decide
  · rw [running_entry]
    by_cases h : 60 = n
    · subst h; decide
    · have : runsOn running n = 0 := by
        unfold runsOn
        rw [List.length_eq_zero_iff, List.filter_eq_nil_iff]
        intro ch _ hc
        simp only [Bool.and_eq_true] at hc
        obtain ⟨_, hc⟩ := hc
        split at hc
        · next sn hs => rw [(running_snapshot ch sn hs).2] at hc; exact h (by simpa [snapOf] using hc)
        · exact absurd hc (by decide)
      rw [if_neg h, this]
      split <;> rfl

theorem test_meets_the_plan_and_range_invariants : PlanInv running ∧ RangeInv running := by
  refine ⟨⟨by decide, fun n h => ?_, fun ch sn h => ?_⟩, fun ch sn _ h => ?_⟩
  · rw [running_entry] at h ⊢
    split at h
    · rw [if_pos ‹_›]; decide
    · split at h
      · rw [if_neg ‹_›, if_pos ‹_›]; decide
      · exact absurd h (by decide)
  · rw [(running_snapshot ch sn h).2]; decide
  · obtain ⟨rfl, rfl⟩ := running_snapshot ch sn h
    exact ⟨by decide, by decide, by decide, by decide⟩

theorem test_meets_the_hold_invariant : HoldInv running := by
  refine ⟨by decide, by decide, by decide, by decide, fun ch sn h => ?_, by decide, by decide⟩
  obtain ⟨rfl, rfl⟩ := running_snapshot ch sn h
  rfl

theorem test_meets_the_ring_and_learn_invariants : RingInv running ∧ LearnInv running := by
  refine ⟨⟨by decide, by decide, by decide, by decide, by decide, by decide, by decide⟩, by decide, fun n => ?_,
    fun n h => ?_⟩
  · rw [running_entry]; split
    · decide
    · split <;> decide
  · rw [running_entry]; split
    · decide
    · split <;> decide

theorem test_meets_the_bounds :
    TripInv running ∧ BoardInv running ∧ ListsInv running ∧ DividerInv running ∧ HistoryInv running ∧
    CursorInv running ∧ ResetLineInv running := by
  refine ⟨?_, ?_, ?_, ?_, ?_, ⟨?_, ?_⟩, ⟨by decide, by decide, by decide⟩⟩
  · unfold TripInv; decide
  · unfold BoardInv; decide
  · unfold ListsInv; decide
  · unfold DividerInv; decide
  · unfold HistoryInv; decide
  · unfold TapOk; decide
  · unfold MonitorOk; decide

theorem test_meets_a_step : ∃ t, step running = .next t := ⟨_, rfl⟩

end Sys2Proof.Tests
end

section
/-! SUPPORT. What a step can do to the step table, the channels and the hold queue, said once: a property of states that
reads no more than these three is kept by every step where the ways of editing an entry, of running a channel and of
publishing a record keep it. -/

namespace Sys2Proof.MeasurementPlan

open Sys2Proof Sys2Proof.Machine Sys2Proof.Safety

/-- Nothing of the step table, the channels and the hold queue changed. -/
structure SamePlan (s t : State) : Prop where
  table : t.table = s.table
  chans : t.chans = s.chans
  queue : t.queue = s.queue

namespace SamePlan

theorem refl (s : State) : SamePlan s s := ⟨rfl, rfl, rfl⟩

theorem trans {s t u : State} (h : SamePlan s t) (k : SamePlan t u) : SamePlan s u :=
  ⟨k.table.trans h.table, k.chans.trans h.chans, k.queue.trans h.queue⟩

theorem entry {s t : State} (h : SamePlan s t) (n : Nat) : t.entry n = s.entry n := entry_congr h.table n

theorem ch {s t : State} (h : SamePlan s t) (i : ChanNo) : t.ch i = s.ch i := ch_congr h.chans i

/-- The start of a write changes the writer alone (R112). -/
theorem beginWrite (s : State) : SamePlan s (beginWrite s) :=
  ⟨beginWrite_table s, beginWrite_chans s, beginWrite_queue s⟩

/-- A configuration word that its owner may refuse. -/
theorem acceptIf {f : State → State} {s : State} (c : Bool) (h : SamePlan s (f s)) : SamePlan s (acceptIf c f s) := by
  unfold Machine.acceptIf
  split
  · exact h
  · exact ⟨rfl, rfl, rfl⟩

/-- A ring configuration word changes the writer or raises a flag (R108). -/
theorem ringConfig (f : Writer → Writer) (s : State) : SamePlan s (ringConfig f s) := by
  unfold Machine.ringConfig
  split <;> exact ⟨rfl, rfl, rfl⟩

/-- RING_CTRL changes the writer or raises a flag (R109, R110). -/
theorem takeRingCtrl (v : Word) (s : State) : SamePlan s (takeRingCtrl v s) := by
  unfold Machine.takeRingCtrl
  split
  · unfold Machine.ringEnable
    split
    · split
      · exact .trans (t := { s with writer := { s.writer with state := .ready } }) ⟨rfl, rfl, rfl⟩ (.beginWrite _)
      · exact ⟨rfl, rfl, rfl⟩
    · exact .refl s
  · unfold Machine.ringDisable
    split <;> exact ⟨rfl, rfl, rfl⟩

/-- No configuration word changes the plan or a run. -/
theorem takeConfigWord (w : ConfigWord) (v : Word) (s : State) : SamePlan s (takeConfigWord w v s) := by
  unfold Machine.takeConfigWord
  cases w with
  | timebaseDiv => unfold takeTimebaseDiv; exact .acceptIf _ ⟨rfl, rfl, rfl⟩
  | learnTarget => unfold takeLearnTarget; exact .acceptIf _ ⟨rfl, rfl, rfl⟩
  | rangeShift r => unfold takeRangeShift; exact .acceptIf _ ⟨rfl, rfl, rfl⟩
  | sampleBase ch => unfold takeSampleBase; exact .acceptIf _ ⟨rfl, rfl, rfl⟩
  | sampleLen ch => unfold takeSampleLen; exact .acceptIf _ ⟨rfl, rfl, rfl⟩
  | ringBase => unfold takeRingBase; exact .ringConfig _ s
  | ringSize => unfold takeRingSize; exact .ringConfig _ s
  | ringProdAddr => unfold takeRingProdAddr; exact .ringConfig _ s
  | ringCtrl => exact .takeRingCtrl v s
  | bandT i => fin_cases i <;> exact ⟨rfl, rfl, rfl⟩
  | _ => exact ⟨rfl, rfl, rfl⟩

/-- CONSUMER changes the writer or raises a flag (R118). -/
theorem takeConsumer (v : Word) (s : State) : SamePlan s (takeConsumer v s) := by
  unfold Machine.takeConsumer
  dsimp only
  split
  · exact .trans (t := { s with writer := { s.writer with consumer := v.extractLsb' 0 16 } }) ⟨rfl, rfl, rfl⟩
      (.beginWrite _)
  · exact ⟨rfl, rfl, rfl⟩

/-- TEMP changes the band selector and may raise a flag (R77). -/
theorem takeTemp (v : Word) (s : State) : SamePlan s (takeTemp v s) := by
  unfold Machine.takeTemp
  dsimp only
  split <;> exact ⟨rfl, rfl, rfl⟩

/-- The writer's data go out (R160). -/
theorem sendWriterData (s : State) : SamePlan s (sendWriterData s) := by
  unfold Machine.sendWriterData
  split
  · split <;> exact ⟨rfl, rfl, rfl⟩
  · exact .refl s

/-- A forwarded burst's data have gone (R160). -/
theorem forwardedDataDone (s : State) : SamePlan s (forwardedDataDone s) :=
  .trans (t := { s with writer := { s.writer with flight := s.writer.flight.map Flight.oneFewerAhead } })
    ⟨rfl, rfl, rfl⟩ (.sendWriterData _)

/-- The downstream channel takes the writer's address (R159). -/
theorem grantWriter (f : Flight) (s : State) : SamePlan s (grantWriter f s) :=
  .trans (t := emit (.downWriteAddr Config.reservedId (Flight.burst f s.freeCount))
    { s with lastGrant := .writer, freeCount := s.freeCount + 1,
             writer := { s.writer with flight := some { f with phase := .data s.openForwarded } } })
    ⟨rfl, rfl, rfl⟩ (.sendWriterData _)

/-- The downstream channel takes a waiting read (R153). -/
theorem takeReadAddr (s : State) : SamePlan s (takeReadAddr s) := by
  unfold Machine.takeReadAddr
  split <;> exact ⟨rfl, rfl, rfl⟩

/-- A live read arrives (R155, R156). -/
theorem liveReadArrives (o : Offer) (s : State) : SamePlan s (liveReadArrives o s) := by
  unfold Machine.liveReadArrives
  dsimp only
  split <;> exact ⟨rfl, rfl, rfl⟩

/-- A beat of a live write (R154). -/
theorem liveBeatArrives (e : WriteEntry) (m : BitVec 8) (s : State) : SamePlan s (liveBeatArrives e m s) := by
  unfold Machine.liveBeatArrives
  split <;> exact ⟨rfl, rfl, rfl⟩

end SamePlan

/-- A property of the step table, the channels and the hold queue that the ways of changing them keep. -/
structure PlanKept (P : State → Prop) : Prop where
  same       : ∀ s t, SamePlan s t → P s → P t
  runs       : RunKept P
  edit       : ∀ n k v s, n < 8191 → P s → P (editEntry n k v s)
  commit     : ∀ n v s, n < 8191 → P s → P (commitEntry n v s)
  cleared    : ∀ n s, n < 8191 → P s → P (s.setEntry n (Entry.learnCleared (s.entry n)))
  clearedAll : ∀ s, P s → P { s with table := Table.mapAll Entry.learnCleared s.table }
  reset      : ∀ s, P s → P (assertReset s)
  publish    : ∀ s, P s → P (publish s)
  completed  : ∀ s, P s → P (completePlanReset s)

namespace PlanKept

variable {P : State → Prop}

/-- An operation that leaves the three alone by definition. -/
theorem rest (K : PlanKept P) {s t : State} (h : P s) (ht : t.table = s.table := by rfl)
    (hc : t.chans = s.chans := by rfl) (hq : t.queue = s.queue := by rfl) : P t := K.same s t ⟨ht, hc, hq⟩ h

/-- A device command is its meaning, or BUSY (R172). -/
theorem deviceCommand (K : PlanKept P) {f : State → State} {s : State} (h : P s) (hf : P (f s)) :
    P (deviceCommand f s) := by
  unfold Machine.deviceCommand
  split
  · exact K.rest h
  · exact hf

/-- PLAN_RESET (R171). -/
theorem devPlanReset (K : PlanKept P) {s : State} (h : P s) : P (devPlanReset s) := by
  refine K.deviceCommand h ?_
  split
  · exact K.rest h
  · exact K.completed s h

/-- LEARN_CLEAR (R100). -/
theorem devLearnClear (K : PlanKept P) (arg : BitVec 24) {s : State} (h : P s) : P (devLearnClear arg s) := by
  refine K.deviceCommand h ?_
  split
  · rename_i hn
    exact K.rest (K.cleared arg.toNat s (by omega) h)
  · split
    · exact K.rest (K.clearedAll s h)
    · exact K.rest h

/-- A device command by its code (R169). -/
theorem device (K : PlanKept P) (v : Word) (s : State) (h : P s) : P (takeDevCmd v s) := by
  unfold takeDevCmd
  split
  · exact K.devPlanReset h
  · refine K.deviceCommand h ?_
    dsimp only
    split <;> exact K.rest h
  · refine K.deviceCommand h ?_
    dsimp only
    split <;> exact K.rest h
  · exact K.devLearnClear _ h
  · exact K.deviceCommand h (K.rest h)
  · exact K.deviceCommand h (K.rest h)

/-- A pair arrives: trips end runs, then its charge is metered into the runs left (R131, R133, R135). -/
theorem current (K : PlanKept P) (src : SrcNo) (v i : Word) (s : State) (h : P s) : P (takeCurrent src v i s) := by
  unfold takeCurrent pairArrives
  dsimp only
  refine K.runs.meterPair src i _ ?_
  unfold tripCheck
  dsimp only
  split
  · exact K.runs.endBoundRuns src _ (K.rest h)
  · exact K.rest h

/-- Every operation of the part keeps what the ways of changing the plan and the runs keep. -/
theorem kept (K : PlanKept P) : Kept P where
  pending _ _ h := K.rest h
  reset := K.reset
  released _ _ h := K.rest h
  counted _ h _ := K.rest h
  increment _ h := K.rest h
  expiry := K.runs.expiry
  emit _ _ h := K.rest h
  misuse _ h := K.rest h
  edit n k v s hn _ h := K.edit n k v s hn h
  commit := K.commit
  config w v s h := K.same _ _ (.takeConfigWord w v s) h
  channel := K.runs.channel
  device := K.device
  consumer v s h := K.same _ _ (.takeConsumer v s) h
  temp v s h := K.same _ _ (.takeTemp v s) h
  inspect _ _ h := K.rest h
  sample ch w s _ h := K.runs.sample ch w s h
  stray ch a s _ _ h := K.runs.stray ch a s h
  voltage _ _ _ _ h := K.rest h
  current src v i s _ _ h := K.current src v i s h
  monStray _ _ _ _ _ h := K.rest h
  charge := K.runs.meterRun
  liveRead o s _ h := K.same _ _ (.liveReadArrives o s) h
  heldRead _ _ _ h := K.rest h
  forwarded _ _ _ h := K.rest h
  readAddr s h := K.same _ _ (.takeReadAddr s) h
  readBeat _ _ _ _ _ h := K.rest h
  partBeats _ _ h := K.rest h
  liveWrite _ _ _ h := K.rest h
  liveBeat e m s h := K.same _ _ (.liveBeatArrives e m s) h
  response _ _ _ _ h := K.rest h
  grantFwd _ _ _ h := K.rest h
  grantWtr f s _ h := K.same _ _ (.grantWriter f s) h
  beat _ _ _ h := K.rest h
  dataDone s h := K.same _ _ (.forwardedDataDone s) h
  begin s h := K.same _ _ (.beginWrite s) h
  issue _ _ _ h := K.rest h
  publish s _ _ h := K.publish s h
  fault _ _ _ _ _ h := K.rest h
  completed := K.completed

/-- Every step keeps what the ways of changing the plan and the runs keep. -/
theorem step (K : PlanKept P) {s t : State} (h : P s) (he : step s = .next t) : P t := K.kept.step h he

end PlanKept

end Sys2Proof.MeasurementPlan
end

section
/-! SUPPORT. The hold queue and the runs in flight: the invariants taken channel by channel, the count of the runs on a
step, and what starting, ending and releasing a run does to them (R12, R39, R104). -/

namespace Sys2Proof.MeasurementPlan

open Sys2Proof Sys2Proof.Machine Sys2Proof.Safety

/-! ### Counting the runs on a step -/

/-- Whether a context has its run in flight on a step. -/
def runsStep (c : Channel) (n : Nat) : Bool := Channel.inFlight c && onStep c n

theorem runsStep_landed {c : Channel} (h : Channel.inFlight c = false) (n : Nat) : runsStep c n = false := by
  rw [runsStep, h, Bool.false_and]

theorem runsStep_flying {c : Channel} {sn : Snapshot} (hf : Channel.inFlight c = true) (hs : c.snapshot = some sn)
    (n : Nat) : runsStep c n = (sn.step.toNat == n) := by
  rw [runsStep, hf, Bool.true_and, onStep, hs]

/-- The runs on a step are the channels in flight on it. -/
theorem runsOn_eq_countP (s : State) (n : Nat) : runsOn s n = allChannels.countP fun ch => runsStep (s.ch ch) n := by
  rw [List.countP_eq_length_filter]
  rfl

/-- Where one channel changes, the count of the runs on a step changes by that channel. -/
theorem runsOn_change {s t : State} {ch : ChanNo} (hc : ∀ j, j ≠ ch → t.ch j = s.ch j) (n : Nat) :
    runsOn t n + (runsStep (s.ch ch) n).toNat = runsOn s n + (runsStep (t.ch ch) n).toNat := by
  have hp := List.perm_cons_erase (mem_allChannels ch)
  have hrest : (allChannels.erase ch).countP (fun j => runsStep (t.ch j) n) =
      (allChannels.erase ch).countP (fun j => runsStep (s.ch j) n) :=
    List.countP_congr fun j hj => by rw [hc j ((List.Nodup.mem_erase_iff allChannels_nodup).1 hj).1]
  rw [runsOn_eq_countP, runsOn_eq_countP, hp.countP_eq, hp.countP_eq, List.countP_cons, List.countP_cons, hrest]
  cases runsStep (s.ch ch) n <;> cases runsStep (t.ch ch) n <;> simp

/-- The runs in flight agree where an entry's count changes with the channel that changes. -/
theorem RunsInv_change {s t : State} {ch : ChanNo} (hc : ∀ j, j ≠ ch → t.ch j = s.ch j)
    (he : ∀ n, (t.entry n).runs + (runsStep (s.ch ch) n).toNat = (s.entry n).runs + (runsStep (t.ch ch) n).toNat)
    (h : RunsInv s) : RunsInv t := fun n => by
  have h1 := runsOn_change hc n
  have h2 := he n
  have h3 := h n
  omega

/-- A channel in flight on a step is counted in its entry. -/
theorem runs_pos {s : State} (h : RunsInv s) {ch : ChanNo} {n : Nat} (hr : runsStep (s.ch ch) n = true) :
    1 ≤ (s.entry n).runs := by
  rw [h n, runsOn_eq_countP]
  exact List.countP_pos_iff.2 ⟨ch, mem_allChannels ch, hr⟩

/-! ### The hold queue channel by channel -/

/-- What the hold queue's invariant says of one channel, queued or not. -/
structure HoldOk (queued : Prop) (c : Channel) : Prop where
  queued   : queued ↔ c.state = .holding
  held     : c.held.isSome = true ↔ c.state = .holding
  snapshot : Channel.inFlight c = true → c.snapshot.isSome = true
  step     : ∀ sn, c.snapshot = some sn → c.step = sn.step
  deadline : c.deadline.isSome = true → Channel.inFlight c = true
  idle     : c.state = .idle → c.step = noStep ∧ c.snapshot = none

theorem HoldOk.congr {p q : Prop} {c : Channel} (e : p ↔ q) (h : HoldOk p c) : HoldOk q c :=
  ⟨e.symm.trans h.queued, h.held, h.snapshot, h.step, h.deadline, h.idle⟩

/-- The hold queue's invariant is one condition on the queue and one on each channel. -/
theorem HoldInv_iff (s : State) : HoldInv s ↔ s.queue.Nodup ∧ ∀ ch, HoldOk (ch ∈ s.queue) (s.ch ch) :=
  ⟨fun h => ⟨h.nodup, fun ch => ⟨h.queued ch, h.held ch, h.snapshot ch, h.step ch, h.deadline ch, h.idle ch⟩⟩,
   fun h => ⟨h.1, fun ch => (h.2 ch).queued, fun ch => (h.2 ch).held, fun ch => (h.2 ch).snapshot,
     fun ch => (h.2 ch).step, fun ch => (h.2 ch).deadline, fun ch => (h.2 ch).idle⟩⟩

/-- A channel in flight holds no verdict and is not queued. -/
theorem HoldOk.of_inFlight {p : Prop} {c : Channel} (h : HoldOk p c) (hf : Channel.inFlight c = true) :
    ¬ p ∧ c.held = none := by
  have hs : c.state ≠ .holding := fun e => by simp [Channel.inFlight, e] at hf
  refine ⟨fun hp => hs (h.queued.1 hp), ?_⟩
  rw [← Option.not_isSome_iff_eq_none]
  exact fun hh => hs (h.held.1 hh)

/-- A context in flight without a verdict agrees with a queue that it is not in. -/
theorem HoldOk.flying {p : Prop} {c : Channel} {sn : Snapshot} (hp : ¬ p) (hf : Channel.inFlight c = true)
    (hh : c.held = none) (hs : c.snapshot = some sn) (hst : c.step = sn.step) : HoldOk p c := by
  have hne : c.state ≠ .holding := fun e => by simp [Channel.inFlight, e] at hf
  refine ⟨⟨fun h => absurd h hp, fun h => absurd h hne⟩, by simp [hh, hne], fun _ => by simp [hs], fun sn' h => ?_,
    fun _ => hf, fun h => by simp [Channel.inFlight, h] at hf⟩
  rw [hs] at h
  cases h
  exact hst

/-- A context that goes on with the same run agrees as before. -/
theorem HoldOk.sameRun {p : Prop} {c d : Channel} (h : HoldOk p c) (hf : Channel.inFlight c = true)
    (hd : SameRun c d) : HoldOk p d := by
  obtain ⟨hp, hh⟩ := h.of_inFlight hf
  obtain ⟨sn, hs⟩ := Option.isSome_iff_exists.1 (h.snapshot hf)
  exact .flying hp hd.inFlight (hd.held.trans hh) (hd.snapshot.trans hs) (hd.step.trans (h.step sn hs))

/-! ### The invariant of the plan and its runs -/

/-- The part without one channel's agreement with the queue: what holds while that channel is being released. -/
structure QueueInvBut (ch : ChanNo) (s : State) : Prop where
  table  : TableInv s
  runs   : RunsInv s
  nodup  : s.queue.Nodup
  others : ∀ j, j ≠ ch → HoldOk (j ∈ s.queue) (s.ch j)

/-- The step table, the hold queue and the runs in flight agree. -/
structure QueueInv (s : State) : Prop where
  table : TableInv s
  hold  : HoldInv s
  runs  : RunsInv s

theorem QueueInv.holdOk {s : State} (h : QueueInv s) (ch : ChanNo) : HoldOk (ch ∈ s.queue) (s.ch ch) :=
  ((HoldInv_iff s).1 h.hold).2 ch

theorem QueueInv.but {s : State} (h : QueueInv s) (ch : ChanNo) : QueueInvBut ch s :=
  ⟨h.table, h.runs, h.hold.nodup, fun j _ => h.holdOk j⟩

theorem QueueInvBut.all {s : State} {ch : ChanNo} (h : QueueInvBut ch s) (hc : HoldOk (ch ∈ s.queue) (s.ch ch)) :
    QueueInv s := by
  refine ⟨h.table, (HoldInv_iff s).2 ⟨h.nodup, fun j => ?_⟩, h.runs⟩
  by_cases e : j = ch
  · exact e ▸ hc
  · exact h.others j e

theorem TableInv_same {s t : State} (e : SamePlan s t) (h : TableInv s) : TableInv t where
  canonical := e.table ▸ h.canonical
  usable n hn := by rw [e.entry]; exact h.usable n hn
  runStep ch sn hs := h.runStep ch sn (by rw [← e.ch]; exact hs)

theorem RunsInv_same {s t : State} (e : SamePlan s t) (h : RunsInv s) : RunsInv t :=
  RunsInv_change (ch := 0) (fun j _ => e.ch j) (fun n => by rw [e.entry, e.ch]) h

theorem QueueInvBut.same {s t : State} {ch : ChanNo} (e : SamePlan s t) (h : QueueInvBut ch s) : QueueInvBut ch t :=
  ⟨TableInv_same e h.table, RunsInv_same e h.runs, e.queue ▸ h.nodup,
    fun j hj => by rw [e.queue, e.ch]; exact h.others j hj⟩

theorem QueueInv.same {s t : State} (e : SamePlan s t) (h : QueueInv s) : QueueInv t :=
  ((h.but 0).same e).all (by rw [e.queue, e.ch]; exact h.holdOk 0)

/-! ### Changes of an entry and of a channel -/

/-- A change of a usable entry keeps the table's form. -/
theorem TableInv_setEntry {s : State} {n : Nat} (e : Entry) (hn : n < 8191) (h : TableInv s) :
    TableInv (s.setEntry n e) where
  canonical := Table.wf_set n e h.canonical
  usable m hm := by rw [setEntry_entry_other _ _ _ _ (by omega)]; exact h.usable m hm
  runStep := h.runStep

/-- A channel set to a run of a usable step, or to none, keeps the table's form. -/
theorem TableInv_setCh {s : State} {ch : ChanNo} {c : Channel} (hc : ∀ sn, c.snapshot = some sn → sn.step ≠ noStep)
    (h : TableInv s) : TableInv (s.setCh ch c) where
  canonical := h.canonical
  usable := h.usable
  runStep j sn hs := by
    rw [setCh_ch] at hs
    split at hs
    · exact hc sn hs
    · exact h.runStep j sn hs

/-- A step number other than none is that of a usable entry (R1). -/
theorem toNat_of_ne_noStep {n : StepNo} (h : n ≠ noStep) : n.toNat < 8191 := by
  have hne : n.toNat ≠ 8191 := fun e => h (BitVec.eq_of_toNat_eq e)
  have := n.isLt
  omega

/-- A valid entry is usable: entries from 8191 on hold their reset values. -/
theorem TableInv_lt_of_valid {s : State} {n : Nat} (h : TableInv s) (hv : (s.entry n).valid = true) : n < 8191 := by
  by_contra hn
  rw [h.usable n (by omega)] at hv
  cases hv

/-- A change of a usable entry that keeps its runs in flight. -/
theorem QueueInv.setEntry {s : State} {n : Nat} {e : Entry} (hn : n < 8191) (he : e.runs = (s.entry n).runs)
    (h : QueueInv s) : QueueInv (s.setEntry n e) where
  table := TableInv_setEntry e hn h.table
  hold := (HoldInv_iff _).2 ((HoldInv_iff s).1 h.hold)
  runs := RunsInv_change (s := s) (ch := 0) (fun _ _ => rfl)
    (fun m => by
      by_cases hm : n = m
      · subst hm
        rw [setEntry_entry_same, he, setEntry_ch]
      · rw [setEntry_entry_other _ _ _ _ hm, setEntry_ch]) h.runs

/-- A channel set to a context that counts for the same runs and agrees with the queue. -/
theorem QueueInvBut.setCh {s : State} {ch : ChanNo} {c : Channel} (h : QueueInvBut ch s)
    (hs : ∀ sn, c.snapshot = some sn → sn.step ≠ noStep) (hr : ∀ n, runsStep c n = runsStep (s.ch ch) n) :
    QueueInvBut ch (s.setCh ch c) where
  table := TableInv_setCh hs h.table
  runs := RunsInv_change (s := s) (ch := ch) (fun j hj => setCh_ch_other _ _ _ _ (Ne.symm hj))
    (fun n => by rw [setCh_ch_same, setCh_entry, hr]) h.runs
  nodup := h.nodup
  others j hj := by rw [setCh_ch_other _ _ _ _ (Ne.symm hj)]; exact h.others j hj

/-- A run that goes on. -/
theorem QueueInv.tweak {s : State} {ch : ChanNo} {c : Channel} (h : QueueInv s)
    (hf : Channel.inFlight (s.ch ch) = true) (hc : SameRun (s.ch ch) c) : QueueInv (s.setCh ch c) := by
  refine ((h.but ch).setCh (fun sn hs => h.table.runStep ch sn (hc.snapshot ▸ hs)) fun n => ?_).all ?_
  · rw [runsStep, runsStep, hf, hc.inFlight, onStep, onStep, hc.snapshot]
  · rw [setCh_ch_same]
    exact (h.holdOk ch).sameRun hf hc

/-- A change of fields on which neither the queue nor a run rests. -/
theorem QueueInv.aside {s : State} {ch : ChanNo} {c : Channel} (h : QueueInv s) (hst : c.state = (s.ch ch).state)
    (hsn : c.snapshot = (s.ch ch).snapshot) (hstep : c.step = (s.ch ch).step) (hh : c.held = (s.ch ch).held)
    (hd : c.deadline = (s.ch ch).deadline) : QueueInv (s.setCh ch c) := by
  have hfl : Channel.inFlight c = Channel.inFlight (s.ch ch) := by rw [Channel.inFlight, Channel.inFlight, hst]
  refine ((h.but ch).setCh (fun sn hs => h.table.runStep ch sn (hsn ▸ hs)) fun n => ?_).all ?_
  · rw [runsStep, runsStep, hfl, onStep, onStep, hsn]
  · have hold := h.holdOk ch
    rw [setCh_ch_same]
    constructor
    · rw [hst]; exact hold.queued
    · rw [hst, hh]; exact hold.held
    · rw [hfl, hsn]; exact hold.snapshot
    · rw [hsn, hstep]; exact hold.step
    · rw [hfl, hd]; exact hold.deadline
    · rw [hst, hstep, hsn]; exact hold.idle

/-- A channel that holds a verdict and is not queued joins the queue (R104). -/
theorem QueueInvBut.join {s : State} {ch : ChanNo} (h : QueueInvBut ch s) (hq : ch ∉ s.queue)
    (hc : HoldOk True (s.ch ch)) : QueueInv (joinQueue ch s) := by
  have hj : QueueInv { s with queue := s.queue ++ [ch] } := by
    refine ⟨⟨h.table.canonical, h.table.usable, h.table.runStep⟩, (HoldInv_iff _).2 ⟨?_, fun j => ?_⟩, h.runs⟩
    · exact List.nodup_append.2 ⟨h.nodup, List.nodup_singleton ch, fun a ha b hb e => by
        rw [List.mem_singleton.1 hb] at e
        exact hq (e ▸ ha)⟩
    · by_cases e : j = ch
      · subst e
        exact hc.congr (by simp)
      · exact (h.others j e).congr (by simp [e])
  exact hj.same (.beginWrite _)

/-! ### The end and the start of a run -/

/-- The end of a run keeps the table's form, its verdict joins the queue and its entry counts one run fewer (R53). -/
theorem QueueInv.endRun {s : State} {ch : ChanNo} (e : Ending) (h : QueueInv s)
    (hf : Channel.inFlight (s.ch ch) = true) : QueueInv (endRun ch e s) := by
  obtain ⟨sn, hs⟩ := Option.isSome_iff_exists.1 ((h.holdOk ch).snapshot hf)
  obtain ⟨hq, -⟩ := (h.holdOk ch).of_inFlight hf
  have hstep := h.table.runStep ch sn hs
  have hpos : 1 ≤ (s.entry sn.step.toNat).runs :=
    runs_pos h.runs (ch := ch) (by rw [runsStep_flying hf hs, beq_self_eq_true])
  unfold Machine.endRun
  rw [hs]
  dsimp only
  set c := Channel.toHolding (s.ch ch) (runVerdict s ch (s.ch ch) sn e)
  have hcs : c.snapshot = some sn := hs
  have hland : ∀ n, runsStep c n = false := runsStep_landed rfl
  refine QueueInvBut.join ⟨?_, ?_, h.hold.nodup, fun j hj => ?_⟩ hq ?_
  · refine TableInv_setCh (fun sn' hs' => ?_) (TableInv_setEntry _ (toNat_of_ne_noStep hstep) h.table)
    rw [hcs] at hs'
    cases hs'
    exact hstep
  · refine RunsInv_change (s := s) (ch := ch) (fun j hj => setCh_ch_other _ _ _ _ (Ne.symm hj)) (fun n => ?_) h.runs
    rw [setCh_ch_same, hland, runsStep_flying hf hs, setCh_entry, setEntry_entry]
    by_cases hn : sn.step.toNat = n
    · subst hn
      simp only [if_true, Entry.endRun, beq_self_eq_true, Bool.toNat_true, Bool.toNat_false]
      omega
    · simp [hn]
  · rw [setCh_ch_other _ _ _ _ (Ne.symm hj)]
    exact h.holdOk j
  · rw [setCh_ch_same]
    refine ⟨⟨fun _ => rfl, fun _ => trivial⟩, ⟨fun _ => rfl, fun _ => rfl⟩, nofun, fun sn' hs' => ?_, nofun, nofun⟩
    exact (h.holdOk ch).step sn' hs'

/-- A run of a valid entry starts on a channel that has none in flight and is not queued (R12, R42). -/
theorem QueueInvBut.startRun {s : State} {ch : ChanNo} {n : StepNo} (h : QueueInvBut ch s) (hq : ch ∉ s.queue)
    (hf : Channel.inFlight (s.ch ch) = false) (hv : (s.entry n.toNat).valid = true) :
    QueueInv (startRun ch n s) := by
  have hn := TableInv_lt_of_valid h.table hv
  have hns : n ≠ noStep := fun e => by rw [e] at hn; exact absurd hn (by decide)
  unfold Machine.startRun
  dsimp only
  set sn := Entry.snapshot (s.entry n.toNat) n
  set c := Channel.start (s.ch ch) sn s.timebase s.band.current
  have hcs : c.snapshot = some sn := rfl
  have hcf : Channel.inFlight c = true := rfl
  refine QueueInvBut.all (ch := ch) ⟨?_, ?_, h.nodup, fun j hj => ?_⟩ ?_
  · refine TableInv_setCh (fun sn' hs' => ?_) (TableInv_setEntry _ hn h.table)
    rw [hcs] at hs'
    cases hs'
    exact hns
  · refine RunsInv_change (s := s) (ch := ch) (fun j hj => setCh_ch_other _ _ _ _ (Ne.symm hj)) (fun m => ?_) h.runs
    rw [setCh_ch_same, runsStep_flying hcf hcs, runsStep_landed hf, setCh_entry, setEntry_entry]
    have hstep : sn.step.toNat = n.toNat := rfl
    rw [hstep]
    by_cases hm : n.toNat = m
    · subst hm
      simp [Entry.beginRun]
    · simp [hm]
  · rw [setCh_ch_other _ _ _ _ (Ne.symm hj)]
    exact h.others j hj
  · rw [setCh_ch_same]
    exact .flying hq hcf rfl hcs rfl

/-! ### The release of a channel -/

/-- A channel released without a chain is IDLE again (R56). -/
theorem QueueInvBut.releaseIdle {s : State} {ch : ChanNo} (h : QueueInvBut ch s) (hq : ch ∉ s.queue)
    (hf : Channel.inFlight (s.ch ch) = false) (hd : (s.ch ch).deadline = none) : QueueInv (releaseIdle ch s) := by
  have hs : QueueInv (s.setCh ch { s.ch ch with
      held := none, state := .idle, step := noStep, snapshot := none, chainSuppressed := false }) := by
    refine (h.setCh (fun _ hs => by cases hs) fun n => ?_).all ?_
    · rw [runsStep_landed rfl, runsStep_landed hf]
    · rw [setCh_ch_same]
      refine ⟨⟨fun hm => absurd hm hq, nofun⟩, ⟨nofun, nofun⟩, nofun, nofun, ?_, fun _ => ⟨rfl, rfl⟩⟩
      dsimp only
      rw [hd]
      exact nofun
  unfold Machine.releaseIdle
  dsimp only
  split
  · exact .same (s := s.setCh ch _) ⟨rfl, rfl, rfl⟩ hs
  · exact hs

/-- A chain that passes its checks starts the next run (R58). -/
theorem QueueInvBut.chainStart {s : State} {ch : ChanNo} {t : StepNo} (h : QueueInvBut ch s) (hq : ch ∉ s.queue)
    (hf : Channel.inFlight (s.ch ch) = false) (hv : (s.entry t.toNat).valid = true) :
    QueueInv (chainStart ch t s) := by
  have hr := h.startRun hq hf hv
  unfold Machine.chainStart
  dsimp only
  split
  · have hst : Channel.inFlight ((Machine.startRun ch t s).ch ch) = true := by
      unfold Machine.startRun
      rw [setCh_ch_same]
      rfl
    refine hr.tweak hst ?_
    obtain ⟨h1, h2, h3, h4, h5⟩ := RunKept.settle_run
      { (Machine.startRun ch t s).ch ch with
        touchRun := (s.entry t.toNat).host.contactRun.toNat, contactSeen := true, carried := true, touchHeld := true }
      (s.entry t.toNat).host.settle s.band.current
    exact ⟨h1, h2, h3, h4, h5⟩
  · exact hr

/-- A refused chain holds a verdict again and rejoins the queue (R59). -/
theorem QueueInvBut.chainRefuse {s : State} {ch : ChanNo} (t : StepNo) (h : QueueInvBut ch s) (hq : ch ∉ s.queue)
    (hf : Channel.inFlight (s.ch ch) = false) (hd : (s.ch ch).deadline = none) : QueueInv (chainRefuse ch t s) := by
  refine (h.setCh (fun _ hs => by cases hs) fun n => ?_).join hq ?_
  · rw [runsStep_landed rfl, runsStep_landed hf]
  · rw [setCh_ch_same]
    refine ⟨⟨fun _ => rfl, fun _ => trivial⟩, ⟨fun _ => rfl, fun _ => rfl⟩, nofun, nofun, ?_, nofun⟩
    dsimp only
    rw [hd]
    exact nofun

/-- The release of a channel that has left the queue (R56). -/
theorem QueueInvBut.release {s : State} {ch : ChanNo} (h : QueueInvBut ch s) (hq : ch ∉ s.queue)
    (hf : Channel.inFlight (s.ch ch) = false) (hd : (s.ch ch).deadline = none) : QueueInv (release ch s) := by
  unfold Machine.release
  split
  · exact h.releaseIdle hq hf hd
  · rename_i t _
    split
    · rename_i hp
      unfold State.chainPasses at hp
      rw [Bool.and_eq_true] at hp
      exact h.chainStart hq hf hp.1
    · exact h.chainRefuse t hq hf hd

/-- Publication takes the head from the queue and releases its channel (R115). -/
theorem QueueInv.publish {s : State} (h : QueueInv s) : QueueInv (publish s) := by
  unfold Machine.publish
  split
  · exact h
  · rename_i head rest hq
    have hnd := h.hold.nodup
    rw [hq, List.nodup_cons] at hnd
    have hhead := h.holdOk head
    have hst : (s.ch head).state = .holding := hhead.queued.1 (by simp [hq])
    have hf : Channel.inFlight (s.ch head) = false := by simp [Channel.inFlight, hst]
    have hd : (s.ch head).deadline = none := by
      rw [← Option.not_isSome_iff_eq_none]
      intro hh
      rw [hhead.deadline hh] at hf
      cases hf
    have hleft : QueueInvBut head { s with
        queue := rest,
        writer := { s.writer with producer := s.writer.producer + 1, state := .ready, flight := none } } :=
      ⟨⟨h.table.canonical, h.table.usable, h.table.runStep⟩, h.runs, hnd.2,
        fun j hj => (h.holdOk j).congr (by simp [hq, hj])⟩
    exact (hleft.release hnd.1 hf hd).same (.beginWrite _)

/-- The completion of a plan reset leaves every channel IDLE and no run in flight (R63, R173). -/
theorem QueueInv.completed {s : State} (h : QueueInv s) : QueueInv (completePlanReset s) := by
  have hr := completePlanReset_done h.table.canonical
  have hch : ∀ ch, HoldOk False ((completePlanReset s).ch ch) := fun ch => by
    rw [hr.channels ch]
    exact ⟨⟨False.elim, nofun⟩, ⟨nofun, nofun⟩, nofun, nofun, nofun, fun _ => ⟨rfl, rfl⟩⟩
  refine ⟨⟨Table.wf_mapAll _ h.table.canonical, fun n hn => ?_, fun ch sn hs => ?_⟩,
    (HoldInv_iff _).2 ⟨List.nodup_nil, fun ch => (hch ch).congr (by simp [completePlanReset])⟩, fun n => ?_⟩
  · rw [hr.entries n, h.table.usable n hn]
    rfl
  · rw [hr.channels ch] at hs
    cases hs
  · rw [hr.entries n, runsOn_eq_countP, eq_comm]
    refine List.countP_eq_zero.2 fun ch _ => ?_
    rw [hr.channels ch, runsStep_landed rfl]
    exact Bool.noConfusion

/-- A hardware reset leaves the table empty and every channel IDLE (R18, R64). -/
theorem QueueInv.of_reset {s : State} (ht : s.table = []) (hc : ∀ ch, s.ch ch = Channel.reset) (hq : s.queue = []) :
    QueueInv s := by
  have hent : ∀ n, s.entry n = Entry.reset := fun n => by rw [State.entry, ht]; rfl
  refine ⟨⟨by rw [ht]; rfl, fun n _ => hent n, fun ch sn hs => ?_⟩,
    (HoldInv_iff s).2 ⟨by rw [hq]; exact List.nodup_nil, fun ch => ?_⟩, fun n => ?_⟩
  · rw [hc ch] at hs
    cases hs
  · rw [hc ch, hq]
    exact ⟨⟨nofun, nofun⟩, ⟨nofun, nofun⟩, nofun, nofun, nofun, fun _ => ⟨rfl, rfl⟩⟩
  · rw [hent n, runsOn_eq_countP, eq_comm]
    refine List.countP_eq_zero.2 fun ch _ => ?_
    rw [hc ch, runsStep_landed rfl]
    exact Bool.noConfusion

/-- A channel after a hardware reset. -/
theorem reset_ch (s : State) (h : s.chans = State.reset.chans) (ch : ChanNo) : s.ch ch = Channel.reset := by
  rw [State.ch]
  simp [h, State.reset]

/-! ### Every step -/

/-- The events of a run keep the queue and the counts. -/
theorem queueInv_runKept : RunKept QueueInv where
  tweak _ _ _ hf hc _ h := h.tweak hf hc
  aside _ _ _ hst hsn hstep hh hd _ _ _ _ h := h.aside hst hsn hstep hh hd
  ended ch c e s hf hc h := by
    refine (h.tweak hf hc).endRun e ?_
    rw [setCh_ch_same]
    exact hc.inFlight
  judged ch c e sn v s hf hc hs h := by
    have hn := toNat_of_ne_noStep (h.table.runStep ch sn hs)
    refine QueueInv.endRun e ((h.tweak hf hc).setEntry hn rfl) ?_
    rw [setEntry_ch, setCh_ch_same]
    exact hc.inFlight
  started ch n s hi _ hv _ h := by
    have hf : Channel.inFlight (s.ch ch) = false := by simp [Channel.inFlight, hi]
    refine (h.but ch).startRun (fun hm => ?_) hf hv
    have := (h.holdOk ch).queued.1 hm
    rw [hi] at this
    cases this
  tick s h := .same (s := s) ⟨rfl, rfl, rfl⟩ h
  tap _ _ s h := .same (s := s) ⟨rfl, rfl, rfl⟩ h

/-- Clearing every learn record keeps the queue and the counts (R100). -/
theorem QueueInv.clearedAll {s : State} (h : QueueInv s) :
    QueueInv { s with table := Table.mapAll Entry.learnCleared s.table } := by
  have hent : ∀ n, State.entry { s with table := Table.mapAll Entry.learnCleared s.table } n =
      Entry.learnCleared (s.entry n) := fun n => Table.get_mapAll Entry.learnCleared rfl h.table.canonical n
  refine ⟨⟨Table.wf_mapAll _ h.table.canonical, fun n hn => ?_, h.table.runStep⟩, (HoldInv_iff _).2
    ((HoldInv_iff s).1 h.hold), RunsInv_change (s := s) (ch := 0) (fun _ _ => rfl) (fun n => ?_) h.runs⟩
  · rw [hent, h.table.usable n hn]
    rfl
  · rw [hent]
    rfl

theorem queueInv_planKept : PlanKept QueueInv where
  same _ _ e h := h.same e
  runs := queueInv_runKept
  edit _ _ _ _ hn h := h.setEntry hn rfl
  commit n v s hn h := by
    unfold commitEntry
    dsimp only
    split
    · exact h.setEntry hn rfl
    · exact QueueInv.same (s := s.setEntry n _) ⟨rfl, rfl, rfl⟩ (h.setEntry hn rfl)
  cleared _ _ hn h := h.setEntry hn rfl
  clearedAll _ h := h.clearedAll
  reset _ _ := .of_reset rfl (reset_ch _ rfl) rfl
  publish _ h := h.publish
  completed _ h := h.completed

/-- Settles O57: the three invariants together are kept by every way of changing an entry, a run or the queue. -/
theorem stepKeepsTheQueueAndTheRunCounts : Obligations.StepKeepsTheQueueAndTheRunCounts := by
  intro s t htable hhold hruns hstep
  obtain ⟨h1, h2, h3⟩ := queueInv_planKept.step ⟨htable, hhold, hruns⟩ hstep
  exact ⟨h1, h2, h3⟩

end Sys2Proof.MeasurementPlan
end

section
/-! SUPPORT. The plan and the runs within it: the commit checks on entries and snapshots, and each run within its
snapshot's counts, taken entry by entry and channel by channel (R9, R44, R45, R47, R50, R183). -/

namespace Sys2Proof.MeasurementPlan

open Sys2Proof Sys2Proof.Machine Sys2Proof.Safety

/-- A valid entry passes the commit checks (R9). -/
def EntryOk (e : Entry) : Prop := e.valid = true → HostFields.passesCommit e.host = true

/-- A snapshot passes the commit checks, and its run in flight stands within its counts. -/
def RunOk (c : Channel) : Prop :=
  ∀ sn, c.snapshot = some sn →
    HostFields.passesCommit sn.host = true ∧ (Channel.inFlight c = true → RunRange c sn)

/-- Every entry and every run is within the plan, and the table is canonical. -/
structure WithinPlan (s : State) : Prop where
  canonical : Table.wf s.table = true
  entries   : ∀ n, EntryOk (s.entry n)
  runs      : ∀ ch, RunOk (s.ch ch)

/-- The two invariants are one condition on each entry and one on each channel. -/
theorem withinPlan_iff (s : State) : WithinPlan s ↔ PlanInv s ∧ RangeInv s :=
  ⟨fun h => ⟨⟨h.canonical, h.entries, fun ch sn hs => (h.runs ch sn hs).1⟩, fun ch sn hf hs => (h.runs ch sn hs).2 hf⟩,
   fun ⟨hp, hr⟩ => ⟨hp.canonical, hp.entries, fun ch sn hs => ⟨hp.snapshots ch sn hs, fun hf => hr ch sn hf hs⟩⟩⟩

theorem entryOk_reset : EntryOk Entry.reset := nofun

/-- The checks of a commit leave a contact run of at least one (R9). -/
theorem contactRun_pos {h : HostFields} (hp : HostFields.passesCommit h = true) : 1 ≤ h.contactRun.toNat := by
  unfold HostFields.passesCommit at hp
  simp only [Bool.and_eq_true, decide_eq_true_eq] at hp
  obtain ⟨⟨⟨-, hcontact⟩, -⟩, -⟩ := hp
  exact hcontact

/-- A channel without a snapshot has no run to bound. -/
theorem runOk_none {c : Channel} (h : c.snapshot = none) : RunOk c := fun sn hs => by
  rw [h] at hs
  cases hs

/-- A run starts within the counts of a snapshot that passes the commit checks (R42). -/
theorem start_range (c : Channel) (sn : Snapshot) (now : BitVec 32) (band : Band)
    (hp : HostFields.passesCommit sn.host = true) : RunRange (Channel.start c sn now band) sn :=
  ⟨Nat.zero_le _, fun _ => contactRun_pos hp, nofun, nofun⟩

namespace WithinPlan

/-- Only the entries and the channels matter. -/
theorem congr {s t : State} (ht : t.table = s.table) (hc : ∀ ch, t.ch ch = s.ch ch) (h : WithinPlan s) :
    WithinPlan t where
  canonical := ht ▸ h.canonical
  entries n := by rw [entry_congr ht]; exact h.entries n
  runs ch := by rw [hc]; exact h.runs ch

theorem same {s t : State} (e : SamePlan s t) (h : WithinPlan s) : WithinPlan t := h.congr e.table e.ch

theorem joinQueue {s : State} (ch : ChanNo) (h : WithinPlan s) : WithinPlan (joinQueue ch s) :=
  h.congr (joinQueue_table ch s) fun j => joinQueue_ch ch j s

theorem setEntry {s : State} {n : Nat} {e : Entry} (h : WithinPlan s) (he : EntryOk e) :
    WithinPlan (s.setEntry n e) where
  canonical := Table.wf_set n e h.canonical
  entries m := by
    rw [setEntry_entry]
    split
    · exact he
    · exact h.entries m
  runs := h.runs

theorem setCh {s : State} {ch : ChanNo} {c : Channel} (h : WithinPlan s) (hc : RunOk c) :
    WithinPlan (s.setCh ch c) where
  canonical := h.canonical
  entries := h.entries
  runs j := by
    rw [setCh_ch]
    split
    · exact hc
    · exact h.runs j

/-- A change of every entry that keeps its validity and host fields. -/
theorem mapAll {s t : State} {f : Entry → Entry} (h : WithinPlan s) (ht : t.table = Table.mapAll f s.table)
    (hr : f Entry.reset = Entry.reset) (hf : ∀ e, EntryOk e → EntryOk (f e)) (hruns : ∀ ch, RunOk (t.ch ch)) :
    WithinPlan t where
  canonical := by rw [ht]; exact Table.wf_mapAll f h.canonical
  entries n := by
    rw [State.entry, ht, Table.get_mapAll f hr h.canonical]
    exact hf _ (h.entries n)
  runs := hruns

/-- The start of a run of a valid entry (R42). -/
theorem startRun {s : State} {n : StepNo} (ch : ChanNo) (h : WithinPlan s) (hv : (s.entry n.toNat).valid = true) :
    WithinPlan (startRun ch n s) := by
  have hp := h.entries n.toNat hv
  refine WithinPlan.setCh (h.setEntry (h.entries n.toNat)) fun sn hs => ?_
  obtain rfl : Entry.snapshot (s.entry n.toNat) n = sn := Option.some.inj hs
  exact ⟨hp, fun _ => start_range _ _ _ _ hp⟩

/-- A chain that passes its checks starts in SEEKING, or with contact carried where settling begins (R58). -/
theorem chainStart {s : State} {n : StepNo} (ch : ChanNo) (h : WithinPlan s) (hv : (s.entry n.toNat).valid = true) :
    WithinPlan (chainStart ch n s) := by
  have hr := h.startRun ch hv
  unfold Machine.chainStart
  dsimp only
  split
  · refine hr.setCh fun sn hs => ?_
    have hst : (Machine.startRun ch n s).ch ch = Channel.start (s.ch ch) (Entry.snapshot (s.entry n.toNat) n)
        s.timebase s.band.current := setCh_ch_same _ _ _
    rw [hst] at hs ⊢
    unfold Channel.carry at hs ⊢
    rw [(RunKept.settle_run _ _ _).2.1] at hs
    obtain rfl : Entry.snapshot (s.entry n.toNat) n = sn := Option.some.inj hs
    exact ⟨h.entries n.toNat hv, fun _ => RunKept.settle_range _ (Entry.snapshot (s.entry n.toNat) n) _ (Nat.zero_le _)⟩
  · exact hr

/-- The release of a channel, with or without a chain (R56). -/
theorem release {s : State} (ch : ChanNo) (h : WithinPlan s) : WithinPlan (release ch s) := by
  unfold Machine.release
  split
  · have hidle : WithinPlan (s.setCh ch { s.ch ch with
        held := none, state := .idle, step := noStep, snapshot := none, chainSuppressed := false }) :=
      h.setCh (runOk_none rfl)
    unfold releaseIdle
    dsimp only
    split
    · exact .same (s := s.setCh ch _) ⟨rfl, rfl, rfl⟩ hidle
    · exact hidle
  · rename_i t _
    split
    · rename_i hp
      unfold State.chainPasses at hp
      rw [Bool.and_eq_true] at hp
      exact h.chainStart ch hp.1
    · exact (h.setCh (runOk_none rfl)).joinQueue ch

/-- Publication releases the head (R115). -/
theorem publish {s : State} (h : WithinPlan s) : WithinPlan (publish s) := by
  unfold Machine.publish
  split
  · exact h
  · rename_i head rest _
    have hleft : WithinPlan { s with
        queue := rest,
        writer := { s.writer with producer := s.writer.producer + 1, state := .ready, flight := none } } :=
      ⟨h.canonical, h.entries, h.runs⟩
    exact (hleft.release head).same (.beginWrite _)

/-- A commit leaves the entry valid exactly where its checks pass (R9). -/
theorem commitEntry {s : State} (n : Nat) (v : Word) (h : WithinPlan s) : WithinPlan (commitEntry n v s) := by
  have hs : WithinPlan (s.setEntry n (Entry.commit (s.entry n) v)) := h.setEntry id
  unfold Machine.commitEntry
  dsimp only
  split
  · exact hs
  · exact .same (s := s.setEntry n _) ⟨rfl, rfl, rfl⟩ hs

/-- The completion of a plan reset leaves no run (R63, R173). -/
theorem completed {s : State} (h : WithinPlan s) : WithinPlan (completePlanReset s) :=
  h.mapAll rfl rfl (fun _ he => he) fun ch =>
    runOk_none (by rw [(completePlanReset_done h.canonical).channels ch]; rfl)

/-- A hardware reset leaves no valid entry and no run (R18, R64). -/
theorem of_reset {s : State} (ht : s.table = []) (hc : ∀ ch, s.ch ch = Channel.reset) : WithinPlan s where
  canonical := by rw [ht]; rfl
  entries n := by rw [State.entry, ht]; exact entryOk_reset
  runs ch := by rw [hc ch]; exact runOk_none rfl

end WithinPlan

/-- The plan without one channel's counts: what holds while that channel's run ends. -/
structure WithinPlanBut (ch : ChanNo) (s : State) : Prop where
  canonical : Table.wf s.table = true
  entries   : ∀ n, EntryOk (s.entry n)
  others    : ∀ j, j ≠ ch → RunOk (s.ch j)
  snapshot  : ∀ sn, (s.ch ch).snapshot = some sn → HostFields.passesCommit sn.host = true

namespace WithinPlanBut

variable {ch : ChanNo} {s : State}

/-- A context with the same snapshot, whatever its counts. -/
theorem of_setCh {c : Channel} (h : WithinPlan s) (hc : c.snapshot = (s.ch ch).snapshot) :
    WithinPlanBut ch (s.setCh ch c) where
  canonical := h.canonical
  entries := h.entries
  others j hj := by rw [setCh_ch_other _ _ _ _ (Ne.symm hj)]; exact h.runs j
  snapshot sn hs := by
    rw [setCh_ch_same, hc] at hs
    exact (h.runs ch sn hs).1

theorem setEntry {n : Nat} {e : Entry} (h : WithinPlanBut ch s) (he : EntryOk e) :
    WithinPlanBut ch (s.setEntry n e) where
  canonical := Table.wf_set n e h.canonical
  entries m := by
    rw [setEntry_entry]
    split
    · exact he
    · exact h.entries m
  others := h.others
  snapshot := h.snapshot

theorem setCh {c : Channel} (h : WithinPlanBut ch s) (hc : RunOk c) : WithinPlan (s.setCh ch c) where
  canonical := h.canonical
  entries := h.entries
  runs j := by
    by_cases e : j = ch
    · rw [e, setCh_ch_same]; exact hc
    · rw [setCh_ch_other _ _ _ _ (Ne.symm e)]; exact h.others j e

/-- The end of a run, judged or not: its entry keeps its host fields and the channel is in flight no more (R53). -/
theorem endRun (e : Ending) (h : WithinPlanBut ch s) : WithinPlan (endRun ch e s) := by
  unfold Machine.endRun
  split
  · rename_i hs
    rw [← setCh_self s ch]
    exact h.setCh (runOk_none hs)
  · rename_i sn _
    have hended : EntryOk (Entry.endRun (s.entry sn.step.toNat)) := h.entries sn.step.toNat
    have hheld : RunOk (Channel.toHolding (s.ch ch) (runVerdict s ch (s.ch ch) sn e)) :=
      fun sn' hs => ⟨h.snapshot sn' hs, nofun⟩
    exact ((h.setEntry hended).setCh hheld).joinQueue ch

end WithinPlanBut

/-- The events of a run keep it within its snapshot's counts. -/
theorem withinPlan_runKept : RunKept WithinPlan where
  tweak ch c s hf hc hr h := h.setCh fun sn hs => by
    have hs' : (s.ch ch).snapshot = some sn := hc.snapshot ▸ hs
    obtain ⟨hp, hrange⟩ := h.runs ch sn hs'
    exact ⟨hp, fun _ => hr sn hs' (contactRun_pos hp) (hrange hf)⟩
  aside ch c s hst hsn _ _ _ hre hto hse hav h := h.setCh fun sn hs => by
    obtain ⟨hp, hrange⟩ := h.runs ch sn (hsn ▸ hs)
    have hfl : Channel.inFlight c = Channel.inFlight (s.ch ch) := by rw [Channel.inFlight, Channel.inFlight, hst]
    refine ⟨hp, fun hf => ?_⟩
    obtain ⟨h1, h2, h3, h4⟩ := hrange (hfl ▸ hf)
    constructor
    · rw [hre]; exact h1
    · rw [hst, hto]; exact h2
    · rw [hst, hse]; exact h3
    · rw [hst, hav]; exact h4
  ended _ _ e _ _ hc h := (WithinPlanBut.of_setCh h hc.snapshot).endRun e
  judged ch c e sn v s _ hc _ h := by
    have hjudged : EntryOk { (s.setCh ch c).entry sn.step.toNat with
      learn := (qualify (s.setCh ch c) sn v).learn } := h.entries sn.step.toNat
    exact ((WithinPlanBut.of_setCh h hc.snapshot).setEntry hjudged).endRun e
  started ch n s _ _ hv _ h := h.startRun ch hv
  tick s h := .same (s := s) ⟨rfl, rfl, rfl⟩ h
  tap _ _ s h := .same (s := s) ⟨rfl, rfl, rfl⟩ h

theorem withinPlan_planKept : PlanKept WithinPlan where
  same _ _ e h := h.same e
  runs := withinPlan_runKept
  edit _ _ _ _ _ h := h.setEntry nofun
  commit n v _ _ h := h.commitEntry n v
  cleared n _ _ h := h.setEntry (h.entries n)
  clearedAll _ h := h.mapAll rfl rfl (fun _ he => he) h.runs
  reset _ _ := .of_reset rfl (reset_ch _ rfl)
  publish _ h := h.publish
  completed _ h := h.completed

/-- Settles O58: the plan's two invariants are kept together, entry by entry and channel by channel. -/
theorem stepKeepsRunsWithinThePlan : Obligations.StepKeepsRunsWithinThePlan := by
  intro s t hplan hrange hstep
  exact (withinPlan_iff t).1 (withinPlan_planKept.step ((withinPlan_iff s).2 ⟨hplan, hrange⟩) hstep)

end Sys2Proof.MeasurementPlan
end

section
/-! SUPPORT. The state after a hardware reset: what each accessor reads there, and the invariants (R18, R64, R123, R146,
R165). -/

namespace Sys2Proof.MeasurementPlan

open Sys2Proof Sys2Proof.Machine Sys2Proof.Safety

@[simp] theorem State_reset_ch (ch : ChanNo) : State.reset.ch ch = Channel.reset := reset_ch _ rfl ch

@[simp] theorem State_reset_tap (ch : ChanNo) : State.reset.tap ch = { base := 0, len := 0, cursor := 0 } := by
  simp [State.tap, State.reset]

@[simp] theorem State_reset_src (src : SrcNo) : State.reset.src src = Source.reset := by
  simp [State.src, State.reset]

/-- No enabled cause, no notice (R180). -/
theorem noticeAsserted_off {s : State}
    (h : s.notice = { ring := false, guard := false, writerFault := false, flags := false }) :
    s.noticeAsserted = false := by
  simp [State.noticeAsserted, h]

/-- The blocks of the part are at their reset values whatever the sender's queue, the ports, the free values, the reset
line and the straps hold. -/
theorem reset_atResetValues (q : List Instr) (tr : List PortTransfer) (k : Nat) (up : Bool) (straps : BitVec 8) :
    AtResetValues { State.reset with pending := q, trace := tr, freeCount := k, resetN := up, apBase := straps } where
  entries _ := rfl
  inspect := rfl
  taps := State_reset_tap
  channels ch := ⟨0, State_reset_ch ch⟩
  timebase := ⟨rfl, rfl⟩
  tables := ⟨fun r => by simp [State.reset], fun k => by simp [State.reset], rfl⟩
  band := rfl
  writer := ⟨rfl, rfl⟩
  sources := State_reset_src
  move := rfl
  board := ⟨rfl, rfl⟩
  device := ⟨rfl, rfl⟩
  flags := rfl
  notice := rfl
  path := ⟨rfl, rfl, rfl, rfl, rfl⟩

/-- Settles O5: every block is read at its reset value, and HARDWARE_RESET keeps the five fields that are no block's. -/
theorem hardwareResetRestoresEveryBlock : Obligations.HardwareResetRestoresEveryBlock :=
  ⟨reset_atResetValues [] [] 0 true 0, rfl, fun s => ⟨assertReset s, rfl,
    reset_atResetValues s.pending s.trace s.freeCount false s.apBase, rfl, noticeAsserted_off rfl, rfl, rfl, rfl, rfl⟩⟩

/-! ### The invariants at reset -/

theorem queueInv_reset : QueueInv State.reset := .of_reset rfl State_reset_ch rfl

theorem withinPlan_reset : WithinPlan State.reset := .of_reset rfl State_reset_ch

/-- The writer is OFF, the ring empty (R123). -/
theorem ringInv_reset : RingInv State.reset where
  fill := Nat.zero_le _
  enabled h := absurd rfl h
  inFlight := ⟨nofun, nofun⟩
  room := nofun
  head := nofun
  stalled := nofun
  pending := nofun

/-- No source is tripped (R146). -/
theorem tripInv_reset : TripInv State.reset := fun src h => by
  rw [State_reset_src] at h
  cases h

/-- No record has learned anything, and the target is 3 (R18, R89). -/
theorem learnInv_reset : LearnInv State.reset where
  target := by decide
  counts _ := Nat.zero_le _
  fresh _ _ := rfl

/-- No board is open (R85). -/
theorem boardInv_reset : BoardInv State.reset := ⟨nofun, fun h => absurd rfl h⟩

/-- Both lists are empty (R165). -/
theorem listsInv_reset : ListsInv State.reset := ⟨Nat.zero_le _, Nat.zero_le _, Nat.zero_le _⟩

/-- The divider is 100, its count 0 (R35, R36). -/
theorem dividerInv_reset : DividerInv State.reset := by
  unfold DividerInv
  decide

/-- Every window is disabled and at base 0 (R33, R146). -/
theorem cursorInv_reset : CursorInv State.reset where
  taps ch := by
    rw [State_reset_tap]
    exact ⟨rfl, nofun⟩
  monitors src := by
    rw [State_reset_src]
    exact ⟨rfl, nofun⟩

/-- Every history is empty (R146). -/
theorem historyInv_reset : HistoryInv State.reset := fun src => by
  rw [State_reset_src]
  exact Nat.zero_le _

/-- RESET_N is high in the state after reset (log 5). -/
theorem resetLineInv_reset : ResetLineInv State.reset := ⟨nofun, nofun, nofun⟩

/-- Settles O56: the fourteen invariants, each read off the reset values of its block. -/
theorem invariantsHoldAtReset : Obligations.InvariantsHoldAtReset := by
  obtain ⟨hplan, hrange⟩ := (withinPlan_iff _).1 withinPlan_reset
  exact ⟨queueInv_reset.table, hplan, queueInv_reset.hold, queueInv_reset.runs, ringInv_reset, tripInv_reset, hrange,
    learnInv_reset, boardInv_reset, listsInv_reset, dividerInv_reset, cursorInv_reset, historyInv_reset,
    resetLineInv_reset⟩

end Sys2Proof.MeasurementPlan
end

section
/-! SUPPORT. The step area and the words that are misused: edits and commits of an entry, partial-strobe words and words
at unassigned offsets (R2, R6 to R9, R168). -/

namespace Sys2Proof.MeasurementPlan

open Sys2Proof Sys2Proof.Machine Sys2Proof.Safety

/-- The state with APERTURE_MISUSE set and nothing else changed. -/
def misused (s : State) : State := { s with flags := { s.flags with apertureMisuse := true } }

theorem raiseMisuse_eq (s : State) : raiseMisuse s = misused s := rfl

/-- A command that acts while the part is up answers the state it leaves. -/
theorem next_whileUp {f : State → State} {s : State} (h : s.resetN = true) :
    (Host.Outcome.next (whileUp f s) : Result) = .next (f s) := congrArg _ (whileUp_up h)

/-! ### Editing and committing an entry -/

/-- STEP_WORD_WRITE forwards its word and edits its entry (R4, R8). -/
theorem exec_stepWordWrite (n : Fin 8191) (k : Fin 7) (v : Word) {s : State} (h : s.resetN = true) :
    exec (.stepWordWrite n k v) s = .next (editEntry n.val k.val v (sentWord s (n.val * 32 + k.val * 4) v)) :=
  next_whileUp h

/-- Settles O10: the entry is read back as edited, and an edit writes nothing but the table. -/
theorem stepWordWriteEditsTheEntry : Obligations.StepWordWriteEditsTheEntry := fun n k v _ h =>
  ⟨_, exec_stepWordWrite n k v h, setEntry_entry_same _ _ _, fun _ hm => setEntry_entry_other _ _ _ _ (Ne.symm hm), rfl⟩

/-- COMMIT forwards its word and commits its entry (R4, R9). -/
theorem exec_commit (n : Fin 8191) (v : Word) {s : State} (h : s.resetN = true) :
    exec (.commit n v) s = .next (commitEntry n.val v (sentWord s (n.val * 32 + 28) v)) := next_whileUp h

/-- The five checks of a commit (R9). -/
theorem passesCommit_iff (h : HostFields) : HostFields.passesCommit h = true ↔
    h.kind.toNat ≤ 5 ∧ h.avgCode.toNat ≤ 8 ∧ 1 ≤ h.contactRun.toNat ∧ h.nextStep.toNat ≤ 8191 ∧
      (h.limitMode = .fixed ∨ h.limitMode = .learn → h.lowLimit.toInt ≤ h.highLimit.toInt) := by
  unfold HostFields.passesCommit
  cases h.limitMode <;> simp [and_assoc]

/-- A commit that passes writes the entry alone (R9). -/
theorem commitEntry_passes {n : Nat} {v : Word} {s : State}
    (hp : HostFields.passesCommit (HostFields.take (s.entry n).host 7 v) = true) :
    commitEntry n v s = s.setEntry n { s.entry n with
      host := { (s.entry n).host with budget := v }, generation := (s.entry n).generation + 1, valid := true,
      status := .committed, learn := LearnRecord.cleared } := by
  simp only [commitEntry, Entry.commit, hp, if_true]
  rfl

/-- A commit that fails writes the entry and raises COMMIT_REJECTED (R9). -/
theorem commitEntry_fails {n : Nat} {v : Word} {s : State}
    (hp : HostFields.passesCommit (HostFields.take (s.entry n).host 7 v) = false) :
    commitEntry n v s = raiseCommitRejected (s.setEntry n { s.entry n with
      host := { (s.entry n).host with budget := v }, generation := (s.entry n).generation + 1, valid := false,
      status := .rejected, learn := LearnRecord.cleared }) := by
  simp only [commitEntry, Entry.commit, hp, Bool.false_eq_true, if_false]
  rfl

/-- Settles O11: the budget is no check's field, so the entry's checks are those of the committed one. -/
theorem commitChecksTheEntry : Obligations.CommitChecksTheEntry := by
  intro n v s hup h passes
  have hiff : HostFields.passesCommit (HostFields.take h 7 v) = true ↔ passes := passesCommit_iff _
  refine ⟨_, exec_commit n v hup, fun hp => ?_, fun hp => ?_, fun m hm => ?_⟩
  · rw [commitEntry_passes (s := sentWord s (n.val * 32 + 28) v) (hiff.2 hp)]
    exact ⟨setEntry_entry_same _ _ _, rfl⟩
  · rw [commitEntry_fails (s := sentWord s (n.val * 32 + 28) v) (Bool.eq_false_iff.2 fun ht => hp (hiff.1 ht))]
    exact ⟨setEntry_entry_same _ _ _, rfl⟩
  · unfold commitEntry
    dsimp only
    split <;> exact setEntry_entry_other _ _ _ _ (Ne.symm hm)

/-! ### Strobes and areas -/

theorem fullStrobe_iff (strb : BitVec 4) : fullStrobe strb = true ↔ strb = 15#4 := beq_iff_eq

theorem absentStrobe_iff (strb : BitVec 4) : absentStrobe strb = true ↔ strb = 0#4 := beq_iff_eq

theorem partialStrobe_iff (strb : BitVec 4) : partialStrobe strb = true ↔ strb ≠ 15#4 ∧ strb ≠ 0#4 := by
  simp [partialStrobe, fullStrobe, absentStrobe]

/-- An absent aperture word does nothing (R5). -/
theorem apertureWord_absent (f : State → State) (s : State) : apertureWord 0#4 f s = s := rfl

/-- A full aperture word acts (R5). -/
theorem apertureWord_full (f : State → State) (s : State) : apertureWord 15#4 f s = f s := rfl

/-- A partial aperture word is misuse (R6, R168). -/
theorem apertureWord_partial {strb : BitVec 4} (f : State → State) (s : State) (h0 : strb ≠ 0#4) (h15 : strb ≠ 15#4) :
    apertureWord strb f s = misused s := by
  unfold apertureWord
  rw [if_neg (by rwa [absentStrobe_iff]), if_neg (by rwa [fullStrobe_iff]), raiseMisuse_eq]

theorem areaOf_step {off : Nat} (h : off < 0x40000) : areaOf off = .step := by
  rw [areaOf, if_pos h]

theorem areaOf_config {off : Nat} (h : 0x40000 ≤ off) (h' : off < 0x41000) : areaOf off = .config := by
  rw [areaOf, if_neg (by omega), if_pos h']

theorem areaOf_passThrough {off : Nat} (h : 0x42100 ≤ off) : areaOf off = .passThrough := by
  rw [areaOf, if_neg (by omega), if_neg (by omega), if_neg (by omega), if_neg (by omega)]

theorem areaOf_eq_command {off : Nat} : areaOf off = .command ↔ 0x41000 ≤ off ∧ off < 0x42000 := by
  unfold areaOf
  split_ifs <;> simp <;> omega

theorem areaOf_eq_live {off : Nat} : areaOf off = .live ↔ 0x42000 ≤ off ∧ off < 0x42100 := by
  unfold areaOf
  split_ifs <;> simp <;> omega

/-- The step, configuration and command areas hold the aperture words (R167). -/
theorem apertureWordOffset_of_lt {off : Nat} (h : off < 0x42000) : apertureWordOffset off = true := by
  unfold apertureWordOffset
  rcases Nat.lt_or_ge off 0x40000 with h1 | h1
  · rw [areaOf_step h1]
  · rcases Nat.lt_or_ge off 0x41000 with h2 | h2
    · rw [areaOf_config h1 h2]
    · rw [areaOf_eq_command.2 ⟨h2, h⟩]

/-- A partial-strobe word of the three areas is forwarded and raises misuse (R6, R168). -/
theorem exec_partialStrobeWord {off : BitVec 20} {strb : BitVec 4} {s : State} (v : Word) (h : s.resetN = true)
    (h4 : off.toNat % 4 = 0) (ha : off.toNat < 0x42000) (h0 : strb ≠ 0#4) (h15 : strb ≠ 15#4) :
    exec (.partialStrobeWord off strb v) s =
      .next (misused (sent s (.downWord (apertureAddr s.apBase off.toNat) strb v))) := by
  refine (next_whileUp h).trans (congrArg _ (if_pos ?_))
  rw [namesPartialWord, apertureWordOffset_of_lt ha, (partialStrobe_iff strb).2 ⟨h15, h0⟩, h4]
  rfl

/-! ### Entry 8191 -/

/-- A full word of entry 8191 is misuse (R2). -/
theorem takeStepWord_8191 (k : Fin 8) (v : Word) (s : State) : takeStepWord (0x3FFE0 + k.val * 4) v s = misused s := by
  have hk := k.isLt
  unfold takeStepWord
  exact if_pos (by omega)

/-- A present word of entry 8191 in a write beat is misuse (R2). -/
theorem handWord_8191 (k : Fin 8) {strb : BitVec 4} (v : Word) (s : State) (h0 : strb ≠ 0#4) :
    handWord (apertureAddr s.apBase (0x3FFE0 + k.val * 4)) strb v s = misused s := by
  have hk := k.isLt
  unfold handWord
  rw [classify_step s (by omega)]
  dsimp only
  by_cases h15 : strb = 15#4
  · rw [h15, apertureWord_full, takeStepWord_8191]
  · exact apertureWord_partial _ s h0 h15

/-- Settles O12: full or partial, as a command or in a beat, the word raises misuse alone. -/
theorem entry8191OnlyRaisesMisuse : Obligations.Entry8191OnlyRaisesMisuse := by
  intro k v s
  have hk := k.isLt
  have hoff : (BitVec.ofNat 20 (0x3FFE0 + k.val * 4)).toNat = 0x3FFE0 + k.val * 4 := by
    rw [BitVec.toNat_ofNat]
    omega
  refine ⟨fun h => next_whileUp h, fun strb h0 => handWord_8191 k v s h0, fun strb h0 h15 h => ?_, fun hi => if_pos hi⟩
  have hp := exec_partialStrobeWord (off := BitVec.ofNat 20 (0x3FFE0 + k.val * 4)) v h (by omega) (by omega) h0 h15
  rwa [hoff] at hp

/-! ### Unassigned offsets -/

/-- An offset that 10.5 and 10.6 leave unassigned (R168). -/
theorem unassignedOffset_of {off : Nat}
    (h : 0x42100 ≤ off ∨ 0x41030 ≤ off ∧ off < 0x42000 ∨ 0x40214 ≤ off ∧ off < 0x41000 ∨
      0x400E0 ≤ off ∧ off < 0x40100 ∨ 0x40140 ≤ off ∧ off < 0x40180 ∨ 0x40060 ≤ off ∧ off < 0x40080 ∨
      0x40030 ≤ off ∧ off < 0x40040 ∨ ∃ src : Fin 4, off = 0x4019C + src.val * 32) :
    unassignedOffset off = true := by
  have hconfig : 0x40000 ≤ off → off < 0x41000 →
      (0x40214 ≤ off ∨ 0x400E0 ≤ off ∧ off < 0x40100 ∨ 0x40140 ≤ off ∧ off < 0x40180 ∨
        0x40060 ≤ off ∧ off < 0x40080 ∨ 0x40030 ≤ off ∧ off < 0x40040 ∨
        ∃ src : Fin 4, off = 0x4019C + src.val * 32) → unassignedOffset off = true := by
    intro h1 h2 hc
    unfold unassignedOffset configWordAt
    rw [areaOf_config h1 h2, configWordNumber_none]
    · rfl
    · rcases hc with hc | hc | hc | hc | hc | ⟨src, hc⟩
      all_goals omega
  rcases h with h | h | h | h | h | h | h | ⟨src, h⟩
  · unfold unassignedOffset
    rw [areaOf_passThrough h]
  · unfold unassignedOffset commandWordAt
    rw [areaOf_eq_command.2 ⟨by omega, h.2⟩, commandWordNumber_none (by omega)]
    rfl
  · exact hconfig (by omega) h.2 (.inl h.1)
  · exact hconfig (by omega) (by omega) (.inr (.inl h))
  · exact hconfig (by omega) (by omega) (.inr (.inr (.inl h)))
  · exact hconfig (by omega) (by omega) (.inr (.inr (.inr (.inl h))))
  · exact hconfig (by omega) (by omega) (.inr (.inr (.inr (.inr (.inl h)))))
  · exact hconfig (by omega) (by omega) (.inr (.inr (.inr (.inr (.inr ⟨src, h⟩)))))

/-- Settles O13: a partial word is misuse, and a full word without an owner is forwarded only. -/
theorem misusedWordsChangeNothingElse : Obligations.MisusedWordsChangeNothingElse := by
  intro off v s hup
  refine ⟨fun strb h4 ha h0 h15 => exec_partialStrobeWord v hup h4 ha h0 h15, fun h4 hu => ?_⟩
  refine (next_whileUp hup).trans (congrArg _ (if_pos ?_))
  rw [namesUnassigned, unassignedOffset_of hu, h4]
  rfl

end Sys2Proof.MeasurementPlan
end

section
/-! SUPPORT. The inspect pointer: what each operation of the part leaves of it, and INSPECT, which sets it (R15). -/

namespace Sys2Proof.MeasurementPlan

open Sys2Proof Sys2Proof.Machine Sys2Proof.Safety

/-! ### Operations that leave the pointer -/

theorem EngineFrame_inspect {s t : State} (h : EngineFrame s t) : t.inspect = s.inspect := by rw [h.eq]

theorem beginWrite_inspect (s : State) : (beginWrite s).inspect = s.inspect := EngineFrame_inspect (beginWrite_frame s)

theorem whileUp_inspect {f : State → State} {s : State} (h : (f s).inspect = s.inspect) :
    (whileUp f s).inspect = s.inspect := by
  unfold whileUp
  split
  · exact h
  · rfl

/-- An operation under a condition. -/
theorem ite_inspect {c : Prop} [Decidable c] {s t u : State} (ht : t.inspect = s.inspect) (hu : u.inspect = s.inspect) :
    (if c then t else u).inspect = s.inspect := by
  split
  · exact ht
  · exact hu

theorem countUp_inspect (s : State) : (countUp s).inspect = s.inspect := by
  rw [countUp_eq]
  dsimp only
  exact EngineFrame_inspect (takeDueExpiries_frame s)

theorem acceptIf_inspect {f : State → State} {s : State} (c : Bool) (h : (f s).inspect = s.inspect) :
    (acceptIf c f s).inspect = s.inspect := ite_inspect h rfl

theorem ringConfig_inspect (f : Writer → Writer) (s : State) : (ringConfig f s).inspect = s.inspect :=
  ite_inspect rfl rfl

theorem ringEnable_inspect (s : State) : (ringEnable s).inspect = s.inspect :=
  ite_inspect (ite_inspect (beginWrite_inspect _) rfl) rfl

theorem ringDisable_inspect (s : State) : (ringDisable s).inspect = s.inspect := by
  unfold ringDisable
  split <;> rfl

/-- No configuration word is INSPECT (10.5). -/
theorem takeConfigWord_inspect (w : ConfigWord) (v : Word) (s : State) :
    (takeConfigWord w v s).inspect = s.inspect := by
  cases w with
  | timebaseDiv => exact acceptIf_inspect _ rfl
  | learnTarget => exact acceptIf_inspect _ rfl
  | rangeShift r => exact acceptIf_inspect _ rfl
  | sampleBase ch => exact acceptIf_inspect _ rfl
  | sampleLen ch => exact acceptIf_inspect _ rfl
  | ringBase => exact ringConfig_inspect _ s
  | ringSize => exact ringConfig_inspect _ s
  | ringProdAddr => exact ringConfig_inspect _ s
  | ringCtrl => exact ite_inspect (ringEnable_inspect s) (ringDisable_inspect s)
  | bandT i => fin_cases i <;> rfl
  | _ => rfl

theorem deviceCommand_inspect {f : State → State} {s : State} (h : (f s).inspect = s.inspect) :
    (deviceCommand f s).inspect = s.inspect := ite_inspect rfl h

theorem devPlanReset_inspect (s : State) : (devPlanReset s).inspect = s.inspect :=
  deviceCommand_inspect (ite_inspect rfl rfl)

theorem devBoardOpen_inspect (arg : BitVec 24) (s : State) : (devBoardOpen arg s).inspect = s.inspect :=
  deviceCommand_inspect (ite_inspect rfl rfl)

theorem devBoardClose_inspect (s : State) : (devBoardClose s).inspect = s.inspect :=
  deviceCommand_inspect (ite_inspect rfl rfl)

theorem devLearnClear_inspect (arg : BitVec 24) (s : State) : (devLearnClear arg s).inspect = s.inspect :=
  deviceCommand_inspect (ite_inspect rfl (ite_inspect rfl rfl))

theorem devGuardClear_inspect (arg : BitVec 24) (s : State) : (devGuardClear arg s).inspect = s.inspect :=
  deviceCommand_inspect rfl

theorem devUnknown_inspect (s : State) : (devUnknown s).inspect = s.inspect := deviceCommand_inspect rfl

/-- No device command is INSPECT (10.6). -/
theorem takeDevCmd_inspect (v : Word) (s : State) : (takeDevCmd v s).inspect = s.inspect := by
  unfold takeDevCmd
  split
  · exact devPlanReset_inspect s
  · exact devBoardOpen_inspect _ s
  · exact devBoardClose_inspect s
  · exact devLearnClear_inspect _ s
  · exact devGuardClear_inspect _ s
  · exact devUnknown_inspect s

theorem takeConsumer_inspect (v : Word) (s : State) : (takeConsumer v s).inspect = s.inspect :=
  ite_inspect (beginWrite_inspect _) rfl

theorem takeTemp_inspect (v : Word) (s : State) : (takeTemp v s).inspect = s.inspect := ite_inspect rfl rfl

theorem commitEntry_inspect (n : Nat) (v : Word) (s : State) : (commitEntry n v s).inspect = s.inspect :=
  ite_inspect rfl rfl

/-- No word of the step area is INSPECT. -/
theorem takeStepWord_inspect (off : Nat) (v : Word) (s : State) : (takeStepWord off v s).inspect = s.inspect :=
  ite_inspect rfl (ite_inspect (commitEntry_inspect _ v s) rfl)

theorem takeSample_inspect (ch : ChanNo) (w : Word) (s : State) : (takeSample ch w s).inspect = s.inspect :=
  EngineFrame_inspect (s := s.setTap ch _) (engineSample_frame ch w _)

theorem takeSampleStray_inspect (ch : ChanNo) (a : Addr) (s : State) : (takeSampleStray ch a s).inspect = s.inspect :=
  EngineFrame_inspect (s := s.setTap ch _) (engineStray_frame ch _)

theorem takeSampleWord_inspect (ch : ChanNo) (a : Addr) (strb : BitVec 4) (w : Word) (s : State) :
    (takeSampleWord ch a strb w s).inspect = s.inspect :=
  ite_inspect rfl (ite_inspect (takeSample_inspect ch w s) (takeSampleStray_inspect ch a s))

theorem tripCheck_inspect (src : SrcNo) (found : TripSet) (s : State) :
    (tripCheck src found s).inspect = s.inspect := by
  unfold tripCheck
  refine ite_inspect ?_ rfl
  rw [EngineFrame_inspect (endBoundRuns_frame src _)]
  rfl

theorem takeCurrent_inspect (src : SrcNo) (v i : Word) (s : State) : (takeCurrent src v i s).inspect = s.inspect := by
  unfold takeCurrent pairArrives
  rw [EngineFrame_inspect (meterPair_frame src i _), tripCheck_inspect]
  rfl

theorem takeMonitorWord_inspect (src : SrcNo) (a : Addr) (strb : BitVec 4) (w : Word) (s : State) :
    (takeMonitorWord src a strb w s).inspect = s.inspect := by
  refine ite_inspect rfl ?_
  cases Source.classify (s.src src) a strb with
  | voltage => rfl
  | pair v => exact takeCurrent_inspect src v w s
  | stray => rfl

theorem publish_inspect (s : State) : (publish s).inspect = s.inspect := by
  unfold publish
  split
  · rfl
  · rename_i head rest _
    rw [beginWrite_inspect]
    rcases release_frame head { s with queue := rest, writer := { s.writer with
      producer := s.writer.producer + 1, state := .ready, flight := none } } with h | ⟨u, h, e⟩
    · rw [EngineFrame_inspect h]
    · rw [e]
      exact (EngineFrame_inspect h).trans rfl

theorem sendWriterData_inspect (s : State) : (sendWriterData s).inspect = s.inspect := by
  unfold sendWriterData
  split
  · split <;> rfl
  · rfl

theorem completeGrant_inspect (o : Option Offer) (before : Bool) (s : State) :
    (completeGrant o before s).inspect = s.inspect := by
  unfold completeGrant
  dsimp only
  split
  · rfl
  · exact sendWriterData_inspect _
  · rfl

theorem liveWriteEvent_inspect (event : LiveWrite) (s : State) : (liveWriteEvent event s).inspect = s.inspect := by
  unfold liveWriteEvent
  split
  · exact ite_inspect rfl rfl
  · split
    · exact ite_inspect (ite_inspect rfl rfl) rfl
    · rfl

theorem liveReadArrives_inspect (o : Offer) (s : State) : (liveReadArrives o s).inspect = s.inspect :=
  ite_inspect rfl rfl

theorem takeReadAddr_inspect (s : State) : (takeReadAddr s).inspect = s.inspect := by
  unfold takeReadAddr
  split <;> rfl

theorem writeError_inspect (k : WriteKind) (e : ErrResp) (s : State) : (writeError k e s).inspect = s.inspect :=
  ite_inspect rfl rfl

/-! ### Commands that leave the pointer -/

theorem configWrite_inspect (w : ConfigWord) (v : Word) {take : State → State} (s : State)
    (ht : ∀ u, (take u).inspect = u.inspect) : (configWrite w v take s).inspect = s.inspect :=
  whileUp_inspect (ht _)

theorem commandWrite_inspect (w : CommandWord) (v : Word) {take : State → State} (s : State)
    (ht : ∀ u, (take u).inspect = u.inspect) : (commandWrite w v take s).inspect = s.inspect :=
  whileUp_inspect (ht _)

/-- Whether a command can change the inspect pointer: the hardware reset, INSPECT, and a beat that may carry it. -/
def maySetInspect : Instr → Bool
  | .hardwareReset => true
  | .inspectWrite _ => true
  | .forwardedWriteBeat _ _ => true
  | _ => false

/-- Every other command leaves the pointer (R15). -/
theorem exec_inspect {c : Instr} (hc : maySetInspect c = false) (s : State) :
    ∃ t, exec c s = .next t ∧ t.inspect = s.inspect := by
  cases c with
  | hardwareReset => cases hc
  | inspectWrite v => cases hc
  | forwardedWriteBeat d m => cases hc
  | resetNRelease straps => exact ⟨_, rfl, ite_inspect rfl rfl⟩
  | timebaseIncrement => exact ⟨_, rfl, whileUp_inspect (countUp_inspect s)⟩
  | deadlineExpiry ch => exact ⟨_, rfl, whileUp_inspect (EngineFrame_inspect (takeExpiry_frame ch s))⟩
  | stepWordWrite n k v => exact ⟨_, rfl, whileUp_inspect rfl⟩
  | commit n v => exact ⟨_, rfl, whileUp_inspect (commitEntry_inspect _ _ _)⟩
  | entry8191Write k v => exact ⟨_, rfl, whileUp_inspect rfl⟩
  | partialStrobeWord off m v => exact ⟨_, rfl, whileUp_inspect (ite_inspect rfl rfl)⟩
  | unassignedApertureWrite off v => exact ⟨_, rfl, whileUp_inspect (ite_inspect rfl rfl)⟩
  | timebaseDivWrite v => exact ⟨_, rfl, configWrite_inspect _ v s (takeConfigWord_inspect .timebaseDiv v)⟩
  | learnTargetWrite v => exact ⟨_, rfl, configWrite_inspect _ v s (takeConfigWord_inspect .learnTarget v)⟩
  | noticeEnableWrite v => exact ⟨_, rfl, configWrite_inspect _ v s (takeConfigWord_inspect .noticeEnable v)⟩
  | ringLevelWrite v => exact ⟨_, rfl, configWrite_inspect _ v s (takeConfigWord_inspect .ringLevel v)⟩
  | ringBaseWrite v => exact ⟨_, rfl, configWrite_inspect _ v s (takeConfigWord_inspect .ringBase v)⟩
  | ringSizeWrite v => exact ⟨_, rfl, configWrite_inspect _ v s (takeConfigWord_inspect .ringSize v)⟩
  | ringProdAddrWrite v => exact ⟨_, rfl, configWrite_inspect _ v s (takeConfigWord_inspect .ringProdAddr v)⟩
  | ringEnable high => exact ⟨_, rfl, configWrite_inspect _ _ s ringEnable_inspect⟩
  | ringDisable high => exact ⟨_, rfl, configWrite_inspect _ _ s ringDisable_inspect⟩
  | bandTWrite i v => exact ⟨_, rfl, configWrite_inspect _ v s (takeConfigWord_inspect (.bandT i) v)⟩
  | bandHystWrite v => exact ⟨_, rfl, configWrite_inspect _ v s (takeConfigWord_inspect .bandHyst v)⟩
  | rangeShiftWrite r v => exact ⟨_, rfl, configWrite_inspect _ v s (takeConfigWord_inspect (.rangeShift r) v)⟩
  | compWrite k b v => exact ⟨_, rfl, configWrite_inspect _ v s (takeConfigWord_inspect (.comp k b) v)⟩
  | sampleBaseWrite ch v => exact ⟨_, rfl, configWrite_inspect _ v s (takeConfigWord_inspect (.sampleBase ch) v)⟩
  | sampleLenWrite ch v => exact ⟨_, rfl, configWrite_inspect _ v s (takeConfigWord_inspect (.sampleLen ch) v)⟩
  | monBaseWrite src v => exact ⟨_, rfl, configWrite_inspect _ v s (takeConfigWord_inspect (.monBase src) v)⟩
  | monLenWrite src v => exact ⟨_, rfl, configWrite_inspect _ v s (takeConfigWord_inspect (.monLen src) v)⟩
  | iLimitWrite src v => exact ⟨_, rfl, configWrite_inspect _ v s (takeConfigWord_inspect (.iLimit src) v)⟩
  | vLimitWrite src v => exact ⟨_, rfl, configWrite_inspect _ v s (takeConfigWord_inspect (.vLimit src) v)⟩
  | pLimitWrite src v => exact ⟨_, rfl, configWrite_inspect _ v s (takeConfigWord_inspect (.pLimit src) v)⟩
  | periodWrite src v => exact ⟨_, rfl, configWrite_inspect _ v s (takeConfigWord_inspect (.period src) v)⟩
  | guardCtrlWrite src v => exact ⟨_, rfl, configWrite_inspect _ v s (takeConfigWord_inspect (.guardCtrl src) v)⟩
  | moveBaseWrite v => exact ⟨_, rfl, configWrite_inspect _ v s (takeConfigWord_inspect .moveBase v)⟩
  | moveLenWrite v => exact ⟨_, rfl, configWrite_inspect _ v s (takeConfigWord_inspect .moveLen v)⟩
  | motionIdWrite v => exact ⟨_, rfl, configWrite_inspect _ v s (takeConfigWord_inspect .motionId v)⟩
  | motionIdMaskWrite v => exact ⟨_, rfl, configWrite_inspect _ v s (takeConfigWord_inspect .motionIdMask v)⟩
  | holdPatternWrite v => exact ⟨_, rfl, configWrite_inspect _ v s (takeConfigWord_inspect .holdPattern v)⟩
  | arm ch arg =>
    exact ⟨_, rfl, commandWrite_inspect _ _ s fun u => EngineFrame_inspect (channelArm_frame ch arg u)⟩
  | abort ch arg => exact ⟨_, rfl, commandWrite_inspect _ _ s fun u => EngineFrame_inspect (channelAbort_frame ch u)⟩
  | chCmdUnknown ch op arg =>
    exact ⟨_, rfl, ite_inspect (commandWrite_inspect _ _ s fun _ => rfl) rfl⟩
  | planReset arg => exact ⟨_, rfl, commandWrite_inspect _ _ s devPlanReset_inspect⟩
  | planResetCompletion resp issued => exact ⟨_, rfl, whileUp_inspect (ite_inspect rfl rfl)⟩
  | boardOpen arg => exact ⟨_, rfl, commandWrite_inspect _ _ s (devBoardOpen_inspect arg)⟩
  | boardClose arg => exact ⟨_, rfl, commandWrite_inspect _ _ s devBoardClose_inspect⟩
  | learnClear arg => exact ⟨_, rfl, commandWrite_inspect _ _ s (devLearnClear_inspect arg)⟩
  | guardClear arg => exact ⟨_, rfl, commandWrite_inspect _ _ s (devGuardClear_inspect arg)⟩
  | devCmdUnknown op arg =>
    exact ⟨_, rfl, ite_inspect (commandWrite_inspect _ _ s devUnknown_inspect) rfl⟩
  | consumerWrite v => exact ⟨_, rfl, commandWrite_inspect _ _ s (takeConsumer_inspect v)⟩
  | tempWrite v => exact ⟨_, rfl, commandWrite_inspect _ _ s (takeTemp_inspect v)⟩
  | liveWrite event => exact ⟨_, rfl, whileUp_inspect (liveWriteEvent_inspect event s)⟩
  | liveWriteResponse memory =>
    refine ⟨_, rfl, whileUp_inspect ?_⟩
    split
    · exact ite_inspect rfl rfl
    · rfl
  | liveRead o => exact ⟨_, rfl, whileUp_inspect (ite_inspect (liveReadArrives_inspect o s) rfl)⟩
  | deviceFlagsRead o => exact ⟨_, rfl, whileUp_inspect (ite_inspect (liveReadArrives_inspect o s) rfl)⟩
  | heldRead o => exact ⟨_, rfl, whileUp_inspect (ite_inspect rfl rfl)⟩
  | forwardedRead => exact ⟨_, rfl, whileUp_inspect (takeReadAddr_inspect s)⟩
  | readDataReturn id d r l issued => exact ⟨_, rfl, whileUp_inspect (ite_inspect rfl rfl)⟩
  | partReadBeatsReturn memory =>
    refine ⟨_, rfl, whileUp_inspect ?_⟩
    split
    · exact ite_inspect rfl rfl
    · rfl
  | forwardedWriteResponse id r issued => exact ⟨_, rfl, whileUp_inspect (ite_inspect rfl rfl)⟩
  | downstreamWriteGrant o before => exact ⟨_, rfl, whileUp_inspect (completeGrant_inspect o before s)⟩
  | inSequenceSample ch v => exact ⟨_, rfl, whileUp_inspect (ite_inspect (takeSample_inspect ch v _) rfl)⟩
  | sampleStray ch a m v => exact ⟨_, rfl, whileUp_inspect (ite_inspect (takeSampleStray_inspect ch a _) rfl)⟩
  | voltageTaken src v => exact ⟨_, rfl, whileUp_inspect (ite_inspect rfl rfl)⟩
  | pairArrival src v =>
    refine ⟨_, rfl, whileUp_inspect ?_⟩
    dsimp only
    split
    · exact ite_inspect (takeCurrent_inspect src _ v _) rfl
    · rfl
  | monitorStray src a m v => exact ⟨_, rfl, whileUp_inspect (ite_inspect rfl rfl)⟩
  | chargeExcess ch i =>
    exact ⟨_, rfl, whileUp_inspect (ite_inspect (EngineFrame_inspect (meterRun_frame _ i ch s)) rfl)⟩
  | recordWriteBegin => exact ⟨_, rfl, whileUp_inspect (beginWrite_inspect s)⟩
  | recordWriteOkay issued => exact ⟨_, rfl, whileUp_inspect (ite_inspect (ite_inspect rfl rfl) rfl)⟩
  | publication issued => exact ⟨_, rfl, whileUp_inspect (ite_inspect (ite_inspect rfl (publish_inspect s)) rfl)⟩
  | writeErrorResponse r issued =>
    exact ⟨_, rfl, whileUp_inspect
      (ite_inspect (writeError_inspect _ r s) (ite_inspect (writeError_inspect _ r s) rfl))⟩
  | forwardedReadArrival o => exact ⟨_, rfl, whileUp_inspect (ite_inspect rfl rfl)⟩

/-! ### Words of a beat -/

/-- The low 13 bits of a word. -/
theorem low13_eq (v : Word) : v.extractLsb' 0 13 = BitVec.ofNat 13 (v.toNat % 8192) := by
  apply BitVec.eq_of_toNat_eq
  rw [BitVec.extractLsb'_toNat, BitVec.toNat_ofNat, Nat.shiftRight_zero, Nat.mod_mod]

/-- An address of the aperture is the address of its offset. -/
theorem eq_apertureAddr {straps : BitVec 8} {a : Addr} {off : Nat} (h : apertureOffset straps a = some off) :
    a = apertureAddr straps off := by
  unfold apertureOffset at h
  split at h
  · rename_i hs
    cases h
    apply BitVec.eq_of_toNat_eq
    rw [apertureAddr_toNat straps (Nat.mod_lt _ (by decide))]
    omega
  · cases h

/-- A word of the command area has its offset there, and its address. -/
theorem of_classify_command {s : State} {a : Addr} {off : Nat} (h : s.classify a = .command off) :
    a = apertureAddr s.apBase off ∧ 0x41000 ≤ off ∧ off < 0x42000 := by
  unfold State.classify at h
  split at h
  · rename_i o ho
    have harea : areaOf o = .command ∧ o = off := by
      cases e : areaOf o <;> rw [e] at h <;> cases h
      exact ⟨rfl, rfl⟩
    obtain ⟨harea, rfl⟩ := harea
    exact ⟨eq_apertureAddr ho, areaOf_eq_command.1 harea⟩
  · unfold State.windowClass at h
    split at h
    · cases h
    · split at h <;> cases h

/-- INSPECT is word 11 of the command area (10.6). -/
theorem commandWordNumber_inspect {w : Nat} (h : commandWordNumber w = some .inspect) : w = 11 := by
  unfold commandWordNumber at h
  split at h
  · cases h
  · split at h <;> first | rfl | cases h

/-- A command word other than INSPECT leaves the pointer. -/
theorem takeCommandOffset_inspect {off : Nat} (v : Word) (s : State) (h : commandWordAt off ≠ some .inspect) :
    (takeCommandOffset off v s).inspect = s.inspect := by
  unfold takeCommandOffset
  split
  · rename_i w hw
    cases w with
    | chCmd ch => exact EngineFrame_inspect (channelCommand_frame ch v s)
    | devCmd => exact takeDevCmd_inspect v s
    | consumer => exact takeConsumer_inspect v s
    | temp => exact takeTemp_inspect v s
    | inspect => exact absurd hw h
  · rfl

theorem apertureWord_inspect (strb : BitVec 4) {f : State → State} {s : State} (h : (f s).inspect = s.inspect) :
    (apertureWord strb f s).inspect = s.inspect := ite_inspect rfl (ite_inspect h rfl)

/-- A word of a beat sets the pointer exactly where it is a full word at INSPECT (R15, R150). -/
theorem handWord_inspect {a : Addr} (strb : BitVec 4) (v : Word) (s : State) (ha : a.toNat % 4 = 0) :
    (handWord a strb v s).inspect =
      if strb = 15#4 ∧ a = apertureAddr s.apBase 0x4102C then BitVec.ofNat 13 (v.toNat % 8192) else s.inspect := by
  by_cases hi : strb = 15#4 ∧ a = apertureAddr s.apBase 0x4102C
  · obtain ⟨rfl, rfl⟩ := hi
    rw [if_pos ⟨rfl, rfl⟩, ← low13_eq]
    exact congrArg State.inspect (handWord_command s .inspect v)
  · rw [if_neg hi]
    unfold handWord
    split
    · rfl
    · exact apertureWord_inspect _ (takeStepWord_inspect _ v s)
    · refine apertureWord_inspect _ ?_
      unfold takeConfigOffset
      split
      · exact takeConfigWord_inspect _ v s
      · rfl
    · rename_i off hc
      obtain ⟨rfl, h1, h2⟩ := of_classify_command hc
      by_cases h15 : strb = 15#4
      · refine apertureWord_inspect _ (takeCommandOffset_inspect v s fun hw => hi ⟨h15, ?_⟩)
        have h11 := commandWordNumber_inspect hw
        rw [apertureAddr_toNat _ (by omega)] at ha
        have : off = 0x4102C := by omega
        rw [this]
      · by_cases h0 : strb = 0#4
        · rw [h0, apertureWord_absent]
        · rw [apertureWord_partial _ s h0 h15]
          rfl
    · rfl
    · exact takeSampleWord_inspect _ _ strb v s
    · exact takeMonitorWord_inspect _ _ strb v s
    · rfl

/-- Settles O31: INSPECT sets the pointer, and every operation but it and the reset leaves it. -/
theorem inspectSetsThePointer : Obligations.InspectSetsThePointer := by
  refine ⟨fun v s h => ?_, fun strb v s h h0 h15 => ?_, fun c s t hr hi hb he => ?_,
    fun a strb v s ha => handWord_inspect strb v s ha, rfl, fun s => ⟨_, rfl, rfl⟩, fun s => rfl⟩
  · rw [← low13_eq]
    exact next_whileUp h
  · exact exec_partialStrobeWord (off := 0x4102C#20) v h (by decide) (by decide) h0 h15
  · have hc : maySetInspect c = false := by
      cases c with
      | hardwareReset => exact absurd rfl hr
      | inspectWrite v => exact absurd rfl (hi v)
      | forwardedWriteBeat d m => exact absurd rfl (hb d m)
      | _ => rfl
    obtain ⟨u, hu, hinspect⟩ := exec_inspect hc s
    rw [hu] at he
    cases he
    exact hinspect

end Sys2Proof.MeasurementPlan
end

section
/-! SUPPORT. The live words: fields packed upward from bit 0, the positions of the hold queue, the inspect window, and
the beats of a live read (R14, R16, R17, R62, R82, R106, R120, R138, R155, R175, R178, 10.7). -/

namespace Sys2Proof.MeasurementPlan

open Sys2Proof Sys2Proof.Machine Sys2Proof.Safety

/-! ### Packing fields -/

/-- A word whose fields so far add up to `n` and lie below bit `k`. -/
structure Packs (w : Word) (k n : Nat) : Prop where
  toNat_eq : w.toNat = n
  lt       : n < 2 ^ k

/-- A field of `m` bits on its own at bit 0. -/
theorem packs_field {x m : Nat} (hx : x < 2 ^ m) (hm : m ≤ 32) : Packs (field 0 x) m x where
  toNat_eq := by
    have h32 : 2 ^ m ≤ 2 ^ 32 := Nat.pow_le_pow_right (by decide) hm
    rw [field_toNat (by rw [pow_zero, one_mul]; omega), pow_zero, one_mul]
  lt := hx

/-- A flag on its own at bit 0. -/
theorem packs_flagBit (b : Bool) : Packs (flagBit 0 b) 1 b.toNat :=
  packs_field (m := 1) (Nat.lt_succ_of_le (bool_toNat_le b)) (by decide)

/-- A field of `m` bits joined above the fields so far. -/
theorem Packs.field {w : Word} {k n x low m : Nat} (h : Packs w k n) (hk : k ≤ low) (hx : x < 2 ^ m)
    (hm : low + m ≤ 32) : Packs (w ||| field low x) (low + m) (n + 2 ^ low * x) := by
  have hn : n < 2 ^ low := h.lt.trans_le (Nat.pow_le_pow_right (by decide) hk)
  have hsum : n + 2 ^ low * x < 2 ^ (low + m) := by
    rw [pow_add]
    nlinarith [Nat.mul_le_mul_left (2 ^ low) (Nat.succ_le_of_lt hx)]
  have h32 : 2 ^ (low + m) ≤ 2 ^ 32 := Nat.pow_le_pow_right (by decide) hm
  exact ⟨by rw [or_field (by rw [h.toNat_eq]; exact hn) (by omega), h.toNat_eq], hsum⟩

/-- A flag joined above the fields so far. -/
theorem Packs.flagBit {w : Word} {k n low : Nat} (h : Packs w k n) (b : Bool) (hk : k ≤ low) (hm : low < 32) :
    Packs (w ||| flagBit low b) (low + 1) (n + 2 ^ low * b.toNat) :=
  h.field (m := 1) hk (Nat.lt_succ_of_le (bool_toNat_le b)) hm

/-! ### Codes -/

theorem band_code_lt (band : Band) : Band.code band < 2 ^ 2 := by cases band <;> decide

theorem result_code_lt (r : ResultCode) : ResultCode.code r < 2 ^ 4 := by cases r <;> decide

theorem chState_code_lt (c : ChState) : ChState.code c < 2 ^ 3 := by cases c <;> decide

theorem writerState_code_lt (w : WriterState) : WriterState.code w < 2 ^ 2 := by cases w <;> decide

theorem failedWrite_code_lt (f : FailedWrite) : FailedWrite.code f < 2 ^ 2 := by cases f <;> decide

theorem failResponseCode_lt (r : Option ErrResp) : failResponseCode r < 2 ^ 2 := by
  cases r with
  | none => decide
  | some e => cases e <;> decide

theorem retryCause_code_lt (c : RetryCause) : RetryCause.code c < 2 ^ 2 := by cases c <;> decide

theorem commitStatus_code_lt (c : CommitStatus) : CommitStatus.code c < 2 ^ 2 := by cases c <;> decide

/-- A conjunction of two conditions as one bit. -/
theorem decide_and_toNat (p q : Prop) [Decidable p] [Decidable q] :
    (decide p && decide q).toNat = if p ∧ q then 1 else 0 := by
  by_cases hp : p <;> by_cases hq : q <;> simp [hp, hq]

theorem isAvg4_toNat (m : GuardMode) : (GuardMode.isAvg4 m).toNat = if m = .avg4 then 1 else 0 := by
  cases m <;> rfl

/-! ### The words of the device, the writer, the channels and the sources -/

/-- DEVICE_FLAGS (R175). -/
theorem deviceFlags_packs (f : DeviceFlags) : Packs (DeviceFlags.word f) 7
    (f.apertureMisuse.toNat + 2 ^ 1 * f.configRefused.toNat + 2 ^ 2 * f.commitRejected.toNat +
      2 ^ 3 * f.bandConfig.toNat + 2 ^ 4 * f.monSequence.toNat + 2 ^ 5 * f.consumerRefused.toNat +
      2 ^ 6 * f.drained.toNat) :=
  (packs_flagBit _).flagBit _ (by decide) (by decide)
    |>.flagBit _ (by decide) (by decide)
    |>.flagBit _ (by decide) (by decide)
    |>.flagBit _ (by decide) (by decide)
    |>.flagBit _ (by decide) (by decide)
    |>.flagBit _ (by decide) (by decide)

/-- DEVICE_STATE (R178). -/
theorem deviceState_packs (s : State) : Packs s.deviceStateWord 27
    (s.board.toNat + 2 ^ 16 * s.boardOpen.toNat + 2 ^ 17 * s.resetPending.toNat + 2 ^ 18 * s.holdEngaged.toNat +
      2 ^ 19 * Band.code s.band.current + 2 ^ 21 * s.band.noTempYet.toNat + 2 ^ 22 * (State.causes s).ring.toNat +
      2 ^ 23 * (State.causes s).guard.toNat + 2 ^ 24 * (State.causes s).writerFault.toNat +
      2 ^ 25 * (State.causes s).flags.toNat + 2 ^ 26 * s.noticeAsserted.toNat) :=
  (packs_field s.board.isLt (by decide)).flagBit _ (by decide) (by decide)
    |>.flagBit _ (by decide) (by decide)
    |>.flagBit _ (by decide) (by decide)
    |>.field (by decide) (band_code_lt _) (by decide)
    |>.flagBit _ (by decide) (by decide)
    |>.flagBit _ (by decide) (by decide)
    |>.flagBit _ (by decide) (by decide)
    |>.flagBit _ (by decide) (by decide)
    |>.flagBit _ (by decide) (by decide)
    |>.flagBit _ (by decide) (by decide)

/-- RING_STATE (R120). -/
theorem ringState_packs (w : Writer) : Packs (Writer.ringStateWord w) 32
    (WriterState.code w.state + 2 ^ 2 * FailedWrite.code w.failed + 2 ^ 4 * failResponseCode w.failResponse +
      2 ^ 8 * w.sizeCode.toNat + 2 ^ 16 * Writer.fill w) :=
  (packs_field (writerState_code_lt _) (by decide)).field (by decide) (failedWrite_code_lt _) (by decide)
    |>.field (by decide) (failResponseCode_lt _) (by decide)
    |>.field (by decide) w.sizeCode.isLt (by decide)
    |>.field (by decide) (w.producer - w.consumer).isLt (by decide)

/-- TEMP_STATE (R82). -/
theorem tempState_packs (b : BandSelector) : Packs (BandSelector.word b) 20
    (b.last.toNat + 2 ^ 16 * Band.code b.current + 2 ^ 18 * b.noTempYet.toNat +
      2 ^ 19 * (BandSelector.ordered b).toNat) :=
  (packs_field b.last.isLt (by decide)).field (by decide) (band_code_lt _) (by decide)
    |>.flagBit _ (by decide) (by decide)
    |>.flagBit _ (by decide) (by decide)

/-- CH_STATUS (R62). -/
theorem channelStatus_packs (c : Channel) : Packs (Channel.statusWord c) 30
    (ChState.code c.state + 2 ^ 3 * c.step.toNat + 2 ^ 16 * ResultCode.code c.lastResult + 2 ^ 20 * c.retries.toNat +
      2 ^ 24 * RetryCause.code c.lastRetry + 2 ^ 26 * c.contactSeen.toNat + 2 ^ 27 * c.chainSuppressed.toNat +
      2 ^ 28 * c.carried.toNat + 2 ^ 29 * c.touchHeld.toNat) :=
  (packs_field (chState_code_lt _) (by decide)).field (by decide) c.step.isLt (by decide)
    |>.field (by decide) (result_code_lt _) (by decide)
    |>.field (by decide) c.retries.isLt (by decide)
    |>.field (by decide) (retryCause_code_lt _) (by decide)
    |>.flagBit _ (by decide) (by decide)
    |>.flagBit _ (by decide) (by decide)
    |>.flagBit _ (by decide) (by decide)
    |>.flagBit _ (by decide) (by decide)

/-- SRC_STATUS (R138). -/
theorem sourceStatus_packs {r : Source} (h : r.history.length ≤ 4) : Packs (Source.statusWord r) 11
    (r.trips.overI.toNat + 2 ^ 1 * r.trips.overV.toNat + 2 ^ 2 * r.trips.overP.toNat + 2 ^ 3 * r.seqInd.toNat +
      2 ^ 4 * r.history.length + 2 ^ 7 * r.half.isSome.toNat + 2 ^ 8 * (GuardMode.isAvg4 r.mode).toNat +
      2 ^ 9 * r.holdEnable.toNat + 2 ^ 10 * (Source.holdsMotion r).toNat) :=
  (packs_flagBit _).flagBit _ (by decide) (by decide)
    |>.flagBit _ (by decide) (by decide)
    |>.flagBit _ (by decide) (by decide)
    |>.field (m := 3) (by decide) (by omega) (by decide)
    |>.flagBit _ (by decide) (by decide)
    |>.flagBit _ (by decide) (by decide)
    |>.flagBit _ (by decide) (by decide)
    |>.flagBit _ (by decide) (by decide)

/-! ### The hold queue -/

/-- The channels of a queue as digits to the base 8, the head lowest. -/
def queueDigits (l : List ChanNo) : Nat := Nat.ofDigits 8 (l.map Fin.val)

theorem queueDigits_cons (ch : ChanNo) (l : List ChanNo) : queueDigits (ch :: l) = ch.val + 8 * queueDigits l := by
  simp [queueDigits, Nat.ofDigits_cons]

theorem queueDigits_lt (l : List ChanNo) : queueDigits l < 8 ^ l.length := by
  unfold queueDigits
  rw [← List.length_map (f := Fin.val) (as := l)]
  refine Nat.ofDigits_lt_base_pow_length (by decide) fun x hx => ?_
  obtain ⟨ch, -, rfl⟩ := List.mem_map.1 hx
  exact ch.isLt

/-- The digit at a position is the channel there, or 0 past the end (R106). -/
theorem queueDigits_digit (l : List ChanNo) (p : Nat) :
    queueDigits l / 8 ^ p % 8 = ((l[p]?).map Fin.val).getD 0 := by
  induction l generalizing p with
  | nil => simp [queueDigits]
  | cons ch l ih =>
    have hch := ch.isLt
    rw [queueDigits_cons]
    cases p with
    | zero =>
      simp only [pow_zero, Nat.div_one, List.getElem?_cons_zero, Option.map_some, Option.getD_some]
      omega
    | succ p =>
      have hshift : (ch.val + 8 * queueDigits l) / 8 ^ (p + 1) = queueDigits l / 8 ^ p := by
        rw [pow_succ', ← Nat.div_div_eq_div_mul]
        congr 1
        omega
      rw [hshift, ih, List.getElem?_cons_succ]

/-- The positions of HOLD_QUEUE from one on are the queue's digits from that position's bit on (R106). -/
theorem queueFields_toNat (l : List ChanNo) (p : Nat) (h : p + l.length ≤ 8) :
    (queueFields p l).toNat = 2 ^ (3 * p + 4) * queueDigits l := by
  induction l generalizing p with
  | nil => rfl
  | cons ch l ih =>
    rw [List.length_cons] at h
    have hch := ch.isLt
    have hp : 2 ^ (3 * p + 4) * 8 ≤ 2 ^ 32 := by
      rw [show (8 : Nat) = 2 ^ 3 from rfl, ← pow_add]
      exact Nat.pow_le_pow_right (by decide) (by omega)
    have hlow : 2 ^ (3 * p + 4) * ch.val < 2 ^ (3 * p + 7) := by
      rw [show 3 * p + 7 = 3 * p + 4 + 3 from rfl, pow_add _ (3 * p + 4)]
      exact Nat.mul_lt_mul_of_pos_left hch (Nat.two_pow_pos _)
    have hhigh : 2 ^ (3 * (p + 1) + 4) * queueDigits l = queueDigits l <<< (3 * p + 7) := by
      rw [Nat.shiftLeft_eq, Nat.mul_comm]
      rfl
    rw [queueFields, BitVec.toNat_or, field_toNat (by nlinarith [Nat.two_pow_pos (3 * p + 4)]), ih (p + 1) (by omega),
      hhigh, Nat.or_comm, ← Nat.shiftLeft_add_eq_or_of_lt hlow, Nat.shiftLeft_eq, queueDigits_cons,
      show 3 * p + 7 = 3 * p + 4 + 3 from rfl, pow_add _ (3 * p + 4)]
    ring

/-- HOLD_QUEUE is the queue's length below its digits (R106). -/
theorem holdQueueWord_toNat {s : State} (h : s.queue.length ≤ 8) :
    s.holdQueueWord.toNat = s.queue.length + 16 * queueDigits s.queue := by
  unfold State.holdQueueWord
  rw [BitVec.toNat_or, field_toNat (by omega), queueFields_toNat _ 0 (by omega), Nat.or_comm, Nat.mul_comm (2 ^ _),
    ← Nat.shiftLeft_eq, ← Nat.shiftLeft_add_eq_or_of_lt (by omega), Nat.shiftLeft_eq]
  omega

theorem holdQueueWord_lt {s : State} (h : s.queue.length ≤ 8) : s.holdQueueWord.toNat < 2 ^ 28 := by
  have hd := queueDigits_lt s.queue
  have hl : 8 ^ s.queue.length ≤ 8 ^ 8 := Nat.pow_le_pow_right (by decide) h
  rw [holdQueueWord_toNat h]
  omega

/-- A position of HOLD_QUEUE. -/
theorem holdQueueWord_position {s : State} (h : s.queue.length ≤ 8) (p : Nat) :
    s.holdQueueWord.toNat / 2 ^ (3 * p + 4) % 8 = ((s.queue[p]?).map Fin.val).getD 0 := by
  rw [holdQueueWord_toNat h, ← queueDigits_digit, Nat.add_comm (3 * p), pow_add, pow_mul,
    ← Nat.div_div_eq_div_mul]
  congr 2
  omega

/-! ### The inspect window -/

/-- IW0 (R16). -/
theorem iw0_packs {e : Entry} (hc : e.learn.count ≤ 15) (hr : e.runs ≤ 8) : Packs (Entry.iw0 e) 20
    (e.valid.toNat + 2 ^ 1 * CommitStatus.code e.status + 2 ^ 3 * e.learn.derived.toNat + 2 ^ 4 * e.learn.count +
      2 ^ 8 * e.generation.toNat + 2 ^ 16 * e.runs) :=
  (packs_flagBit _).field (by decide) (commitStatus_code_lt _) (by decide)
    |>.flagBit _ (by decide) (by decide)
    |>.field (m := 4) (by decide) (by omega) (by decide)
    |>.field (by decide) e.generation.isLt (by decide)
    |>.field (m := 4) (by decide) (by omega) (by decide)

/-- IW1 (R16). -/
theorem iw1_packs (e : Entry) : Packs (Entry.iw1 e) 24
    (e.learn.lastBoard.toNat + 2 ^ 16 * (e.learn.sum.extractLsb' 32 8).toNat) :=
  (packs_field e.learn.lastBoard.isLt (by decide)).field (by decide) (e.learn.sum.extractLsb' 32 8).isLt (by decide)

/-- The upper eight bits of a learned sum. -/
theorem sum_high (x : BitVec 40) : (x.extractLsb' 32 8).toNat = x.toNat / 2 ^ 32 := by
  have := x.isLt
  rw [BitVec.extractLsb'_toNat, Nat.shiftRight_eq_div_pow]
  omega

/-- The lower word of a learned sum. -/
theorem sum_low (x : BitVec 40) : (x.extractLsb' 0 32).toNat = x.toNat % 2 ^ 32 := by
  rw [BitVec.extractLsb'_toNat, Nat.shiftRight_zero]

/-- The window shows the entry that the pointer selects (R16). -/
theorem inspectWord_selected {s : State} (h : s.inspect ≠ noStep) (k : Nat) :
    s.inspectWord k = Entry.inspectWord (s.entry s.inspect.toNat) k := if_neg h

/-- The window is all zeros while the pointer is 8191 (R17). -/
theorem inspectWord_none {s : State} (h : s.inspect = noStep) (k : Nat) : s.inspectWord k = 0#32 := if_pos h

/-! ### The live words by number -/

theorem liveWord_channel (s : State) (ch : ChanNo) : s.liveWord (8 + ch.val) = Channel.statusWord (s.ch ch) := by
  fin_cases ch <;> rfl

theorem liveWord_source (s : State) (src : SrcNo) : s.liveWord (16 + src.val) = Source.statusWord (s.src src) := by
  fin_cases src <;> rfl

theorem liveWord_inspect (s : State) (k : Fin 8) : s.liveWord (32 + k.val) = s.inspectWord k.val := by
  fin_cases k <;> rfl

/-- An unassigned live word reads 0 (R155). -/
theorem liveWord_unassigned (s : State) {k : Nat} (h : 21 ≤ k ∧ k ≤ 31 ∨ 40 ≤ k) : s.liveWord k = 0#32 := by
  unfold State.liveWord
  split
  case h_10 =>
    rw [dif_neg (by omega), dif_neg (by omega), if_neg (by omega)]
    rfl
  all_goals omega

/-- The number of a word widened to 32 bits. -/
theorem setWidth32_toNat (x : BitVec 16) : (x.setWidth 32).toNat = x.toNat := by
  have := x.isLt
  rw [BitVec.toNat_setWidth]
  omega

/-! ### The beats of a live read -/

/-- The aligned doubleword of an address. -/
theorem dwordOf_toNat (a : Addr) : (dwordOf a).toNat = a.toNat / 8 * 8 := by
  have haligned := Kept.dwordOf_aligned a
  have hdiv : (dwordOf a).toNat / 2 ^ 3 = a.toNat / 2 ^ 3 := by
    have ha := a.isLt
    have hmask : (0xFFFFFFF8#32).toNat / 2 ^ 3 = 2 ^ 29 - 1 := rfl
    rw [dwordOf, BitVec.toNat_and, Nat.and_div_two_pow, hmask, Nat.and_two_pow_sub_one_eq_mod]
    omega
  omega

/-- The doubleword of an address of the live area returns its two words, the lower-addressed in the low half (R155). -/
theorem liveBeat_live {s : State} {a : Addr} {k : Nat} (hk : k < 32)
    (h1 : s.apBase.toNat * 0x100000 + 0x42000 + 8 * k ≤ a.toNat)
    (h2 : a.toNat < s.apBase.toNat * 0x100000 + 0x42008 + 8 * k) :
    s.liveBeat a = s.liveWord (2 * k + 1) ++ s.liveWord (2 * k) := by
  have hd : dwordOf a = apertureAddr s.apBase (0x42000 + 8 * k) := by
    apply BitVec.eq_of_toNat_eq
    rw [dwordOf_toNat, apertureAddr_toNat _ (by omega)]
    omega
  have hn : (0x42000 + 8 * k) % 0x100 / 4 = 2 * k := by omega
  unfold State.liveBeat
  rw [hd, apertureOffset_apertureAddr _ (by omega)]
  dsimp only
  rw [if_pos (areaOf_eq_live.2 ⟨by omega, by omega⟩), hn]
  rfl

/-- Outside the live area a beat is 0 (R155). -/
theorem liveBeat_outside {s : State} {a : Addr}
    (h : a.toNat < s.apBase.toNat * 0x100000 + 0x42000 ∨ s.apBase.toNat * 0x100000 + 0x42100 ≤ a.toNat) :
    s.liveBeat a = 0#64 := by
  unfold State.liveBeat
  split
  · rename_i off hoff
    refine if_neg fun hlive => ?_
    obtain ⟨h1, h2⟩ := areaOf_eq_live.1 hlive
    have hd := congrArg BitVec.toNat (eq_apertureAddr hoff)
    rw [dwordOf_toNat, apertureAddr_toNat _ (by omega)] at hd
    omega
  · rfl

/-! ### The live words together -/

/-- The inspect window of a selected entry whose counts fit their fields (R16). -/
theorem inspectWindow_fields {s : State} (hi : s.inspect ≠ 8191#13)
    (hc : (s.entry s.inspect.toNat).learn.count ≤ 15) (hr : (s.entry s.inspect.toNat).runs ≤ 8) :
    let e := s.entry s.inspect.toNat
    (s.liveWord 32).toNat = e.valid.toNat + 2 * CommitStatus.code e.status + 8 * e.learn.derived.toNat +
      16 * e.learn.count + 256 * e.generation.toNat + 65536 * e.runs ∧
    (s.liveWord 33).toNat = e.learn.lastBoard.toNat + 65536 * (e.learn.sum.toNat / 2 ^ 32) ∧
    (s.liveWord 34).toNat = e.learn.sum.toNat % 2 ^ 32 ∧
    s.liveWord 35 = e.learn.least ∧ s.liveWord 36 = e.learn.greatest ∧
    s.liveWord 37 = BitVec.ofInt 32 (if e.learn.count = 0 then 0
      else (e.learn.sum.toInt + (e.learn.count / 2 : Nat)) / (e.learn.count : Int)) ∧
    s.liveWord 38 = e.learn.derivedLow ∧ s.liveWord 39 = e.learn.derivedHigh := by
  intro e
  have hw : ∀ k : Fin 8, s.liveWord (32 + k.val) = Entry.inspectWord e k.val := fun k =>
    (liveWord_inspect s k).trans (inspectWord_selected hi k.val)
  refine ⟨?_, ?_, ?_, hw 3, hw 4, hw 5, hw 6, hw 7⟩
  · exact (congrArg BitVec.toNat (hw 0)).trans (iw0_packs hc hr).toNat_eq
  · rw [← sum_high]
    exact (congrArg BitVec.toNat (hw 1)).trans (iw1_packs e).toNat_eq
  · exact (congrArg BitVec.toNat (hw 2)).trans (sum_low _)

/-- Settles O54: words by their packing, the queue by its digits, the window by its entry, beats by doublewords. -/
theorem liveWordsHoldTheirFields : Obligations.LiveWordsHoldTheirFields := by
  refine ⟨fun s _ hq hh => ⟨(deviceFlags_packs _).toNat_eq, (deviceState_packs s).toNat_eq,
    (packs_field (result_code_lt _) (by decide)).toNat_eq, rfl, setWidth32_toNat _, setWidth32_toNat _, ?_, ?_,
    fun ch => ?_, fun src => ?_, ?_, holdQueueWord_lt hq, fun p => ?_, inspectWindow_fields, fun hi k => ?_,
    fun k => liveWord_unassigned s⟩, fun s a => ⟨fun k h1 h2 => ?_, fun h => ?_⟩,
    rfl, rfl, rfl, rfl, rfl, rfl, rfl⟩
  · rw [← fill_eq]
    exact (ringState_packs _).toNat_eq
  · rw [← decide_and_toNat]
    exact (tempState_packs _).toNat_eq
  · rw [liveWord_channel]
    exact (channelStatus_packs _).toNat_eq
  · dsimp only
    rw [liveWord_source, ← isAvg4_toNat]
    exact (sourceStatus_packs (hh src)).toNat_eq
  · have hn : (s.liveWord 20).toNat = _ := holdQueueWord_toNat hq
    rw [hn]
    omega
  · refine (holdQueueWord_position hq p.val).trans ?_
    cases s.queue[p.val]? <;> rfl
  · exact (liveWord_inspect s k).trans (inspectWord_none hi k.val)
  · exact liveBeat_live k.isLt (by omega) (by omega)
  · exact liveBeat_outside (by omega)

end Sys2Proof.MeasurementPlan
end

section
/-! SUPPORT. The configuration words with a check: TIMEBASE_DIV, LEARN_TARGET and RANGE_SHIFT, and the words of a sample
window. Each is its owner's condition, with what the word does where it holds (R21, R22, R30, R36, R89). -/

namespace Sys2Proof.MeasurementPlan

open Sys2Proof Sys2Proof.Machine Sys2Proof.Safety

/-- The state with CONFIG_REFUSED set and nothing else changed. -/
def refused (s : State) : State := { s with flags := { s.flags with configRefused := true } }

theorem raiseConfigRefused_eq (s : State) : raiseConfigRefused s = refused s := rfl

/-! ### The check of an owner -/

/-- A write is taken where its owner's condition holds, and refused elsewhere. -/
theorem acceptIf_eq_ite {c : Bool} {p : Prop} [Decidable p] (hc : c = true ↔ p) (f : State → State) (s : State) :
    acceptIf c f s = if p then f s else refused s := by
  rw [acceptIf, raiseConfigRefused_eq]
  exact if_congr hc rfl rfl

theorem isIdle_iff (c : Channel) : Channel.isIdle c = true ↔ c.state = .idle := beq_iff_eq

/-! ### What each checked word does -/

/-- TIMEBASE_DIV is 1 to 1023 (R36). -/
theorem takeTimebaseDiv_eq (v : Word) (s : State) : takeTimebaseDiv v s =
    if 1 ≤ v.toNat ∧ v.toNat ≤ 1023 then { s with timebaseDiv := v.setWidth 10, divCount := 0 } else refused s :=
  acceptIf_eq_ite (by simp) _ s

/-- LEARN_TARGET is 1 to 15, and no board is open and no channel busy (R89). -/
theorem takeLearnTarget_eq (v : Word) (s : State) : takeLearnTarget v s =
    if 1 ≤ v.toNat ∧ v.toNat ≤ 15 ∧ s.boardOpen = false ∧ ∀ ch, (s.ch ch).state = .idle then
      { s with learnTarget := v.setWidth 4 } else refused s :=
  acceptIf_eq_ite (by simp [allIdle_iff, and_assoc]) _ s

/-- RANGE_SHIFT waits for every channel to be IDLE (R30). -/
theorem takeRangeShift_eq (r : Fin 8) (v : Word) (s : State) : takeRangeShift r v s =
    if ∀ ch, (s.ch ch).state = .idle then { s with rangeShift := s.rangeShift.set r.val (v.setWidth 3) r.isLt }
    else refused s := by
  rw [takeRangeShift, ← BitVec.setWidth_eq_extractLsb' (by decide)]
  exact acceptIf_eq_ite (allIdle_iff s) _ s

/-- SAMPLE_BASE waits for its channel to be IDLE (R21, R22). -/
theorem takeSampleBase_eq (ch : ChanNo) (v : Word) (s : State) : takeSampleBase ch v s =
    if (s.ch ch).state = .idle then s.setTap ch
      { base := v &&& 0xFFFFFFFC#32, len := (s.tap ch).len, cursor := v &&& 0xFFFFFFFC#32 }
    else refused s :=
  acceptIf_eq_ite (isIdle_iff _) _ s

/-- SAMPLE_LEN waits for its channel to be IDLE (R21, R22). -/
theorem takeSampleLen_eq (ch : ChanNo) (v : Word) (s : State) : takeSampleLen ch v s =
    if (s.ch ch).state = .idle then s.setTap ch
      { base := (s.tap ch).base, len := v.setWidth 16, cursor := (s.tap ch).base }
    else refused s := by
  rw [takeSampleLen, ← BitVec.setWidth_eq_extractLsb' (by decide)]
  exact acceptIf_eq_ite (isIdle_iff _) _ s

/-! ### The commands: the word is forwarded whether it is then taken or refused (R167) -/

theorem exec_timebaseDivWrite (v : Word) {s : State} (h : s.resetN = true) :
    exec (.timebaseDivWrite v) s = .next (takeTimebaseDiv v (sentWord s 0x40000 v)) := next_whileUp h

theorem exec_learnTargetWrite (v : Word) {s : State} (h : s.resetN = true) :
    exec (.learnTargetWrite v) s = .next (takeLearnTarget v (sentWord s 0x40004 v)) := next_whileUp h

theorem exec_rangeShiftWrite (r : Fin 8) (v : Word) {s : State} (h : s.resetN = true) :
    exec (.rangeShiftWrite r v) s = .next (takeRangeShift r v (sentWord s (0x40040 + r.val * 4) v)) := next_whileUp h

theorem exec_sampleBaseWrite (ch : ChanNo) (v : Word) {s : State} (h : s.resetN = true) :
    exec (.sampleBaseWrite ch v) s = .next (takeSampleBase ch v (sentWord s (0x40100 + ch.val * 8) v)) :=
  next_whileUp h

theorem exec_sampleLenWrite (ch : ChanNo) (v : Word) {s : State} (h : s.resetN = true) :
    exec (.sampleLenWrite ch v) s = .next (takeSampleLen ch v (sentWord s (0x40104 + ch.val * 8) v)) :=
  next_whileUp h

/-! ### TIMEBASE_DIV, LEARN_TARGET and RANGE_SHIFT -/

/-- LEARN_TARGET is refused for its value, for an open board or for a busy channel (R89). -/
theorem takeLearnTarget_refused {v : Word} {s : State}
    (hc : v.toNat = 0 ∨ 16 ≤ v.toNat ∨ s.boardOpen = true ∨ ∃ ch, (s.ch ch).state ≠ .idle) :
    takeLearnTarget v s = refused s := by
  rw [takeLearnTarget_eq]
  refine if_neg ?_
  rintro ⟨hlow, hhigh, hboard, hidle⟩
  rcases hc with hc | hc | hc | ⟨ch, hc⟩
  · omega
  · omega
  · exact Bool.noConfusion (hboard.symm.trans hc)
  · exact hc (hidle ch)

/-- RANGE_SHIFT writes the shift of its range alone (R30). -/
theorem takeRangeShift_taken (r : Fin 8) (v : Word) {s : State} (hidle : ∀ ch, (s.ch ch).state = .idle) :
    let t := takeRangeShift r v s
    t.rangeShift[r] = v.setWidth 3 ∧ (∀ q : Fin 8, q ≠ r → t.rangeShift[q] = s.rangeShift[q]) ∧
      t = { s with rangeShift := t.rangeShift } := by
  rw [takeRangeShift_eq, if_pos hidle]
  exact ⟨Vector.getElem_set_self r.isLt,
    fun q hq => Vector.getElem_set_ne r.isLt q.isLt fun e => hq (Fin.ext e.symm), rfl⟩

/-- Settles O17: each word is forwarded and its owner's check read off; a refusal leaves some part of it unmet. -/
theorem checkedConfigurationWords : Obligations.CheckedConfigurationWords := by
  intro v s hup
  rw [exec_timebaseDivWrite v hup, exec_learnTargetWrite v hup, takeTimebaseDiv_eq]
  refine ⟨fun hv => congrArg _ (if_pos hv), fun hv => congrArg _ (if_neg (by omega)), fun hc => ?_,
    fun hc => congrArg _ (takeLearnTarget_refused hc), fun r => ?_⟩
  · rw [takeLearnTarget_eq]
    exact congrArg _ (if_pos hc)
  · rw [exec_rangeShiftWrite r v hup]
    refine ⟨fun hidle => ⟨_, rfl, takeRangeShift_taken r v hidle⟩, fun ⟨ch, hbusy⟩ => ?_⟩
    rw [takeRangeShift_eq]
    exact congrArg _ (if_neg fun hidle => hbusy (hidle ch))

/-! ### SAMPLE_BASE and SAMPLE_LEN -/

/-- Settles O18: both words turn on the channel's state, which the forwarding of the word leaves. -/
theorem sampleWindowWords : Obligations.SampleWindowWords := by
  intro ch v s hup
  rw [exec_sampleBaseWrite ch v hup, exec_sampleLenWrite ch v hup, takeSampleBase_eq, takeSampleLen_eq]
  exact ⟨fun hidle => ⟨congrArg _ (if_pos hidle), congrArg _ (if_pos hidle)⟩,
    fun hbusy => ⟨congrArg _ (if_neg hbusy), congrArg _ (if_neg hbusy)⟩⟩

end Sys2Proof.MeasurementPlan
end

section
/-! SUPPORT. The timebase and the deadlines: a cycle of CLK, TIMEBASE_INCREMENT and DEADLINE_EXPIRY, each as the expiries
that it takes (R35, R37, R51). -/

namespace Sys2Proof.ChannelEngines

open Sys2Proof Sys2Proof.Machine Sys2Proof.Safety Sys2Proof.MeasurementPlan

/-! ### The two events of the timebase as commands -/

theorem exec_timebaseIncrement {s : State} (h : s.resetN = true) :
    exec .timebaseIncrement s = .next (countUp s) := next_whileUp h

theorem exec_deadlineExpiry (ch : ChanNo) {s : State} (h : s.resetN = true) :
    exec (.deadlineExpiry ch) s = .next (takeExpiry ch s) := next_whileUp h

/-- An increment with no expiry due is the count alone (R35). -/
theorem countUp_none {s : State} (h : dueRuns s = []) :
    countUp s = { s with timebase := s.timebase + 1, divCount := 0 } := by
  rw [countUp_eq, takeDueExpiries_none h]

/-- Settles O7: the increment counts on the state that the due expiries leave. -/
theorem timebaseIncrementCounts : Obligations.TimebaseIncrementCounts := by
  intro s hup
  rw [exec_timebaseIncrement hup]
  exact ⟨⟨_, takeDueExpiries_taken s, congrArg _ (countUp_eq s)⟩, fun hnone => congrArg _ (countUp_none hnone)⟩

/-- An expiry ends a run exactly where a run in flight with its snapshot has its deadline at the present count (R37). -/
theorem expiryEnds_iff (s : State) (ch : ChanNo) : expiryEnds s ch = true ↔
    Channel.inFlight (s.ch ch) = true ∧ (s.ch ch).deadline = some s.timebase ∧ (s.ch ch).snapshot.isSome = true := by
  simp [expiryEnds, and_assoc]

/-- Settles O8: the expiry of a deadline that is reached ends the run, any other does nothing. -/
theorem deadlineExpiryEndsTheRun : Obligations.DeadlineExpiryEndsTheRun := by
  intro ch s hup
  rw [exec_deadlineExpiry ch hup]
  refine ⟨fun sn hflies hsnap hdue => ⟨_, rfl, takeExpiry_ends ?_ hsnap⟩, fun hnot => congrArg _ (takeExpiry_idle ?_)⟩
  · exact (expiryEnds_iff s ch).2 ⟨hflies, hdue, by rw [hsnap]; rfl⟩
  · rw [← Bool.not_eq_true, expiryEnds_iff]
    rintro ⟨hflies, hdue, -⟩
    rcases hnot with hnot | hnot
    · exact Bool.noConfusion (hnot.symm.trans hflies)
    · exact hnot hdue

/-! ### One cycle of CLK -/

theorem step_of_no_command {s : State} (h : s.pending = []) : step s = .next (clkCycle s) := by
  unfold step
  rw [h]

/-- While RESET_N is low a cycle of CLK moves nothing (R35; log 17). -/
theorem clkCycle_down {s : State} (h : s.resetN = false) : clkCycle s = s := by
  unfold clkCycle
  rw [h]
  rfl

/-- The divider's count makes no expiry due. -/
theorem dueRuns_divCount (s : State) (n : Nat) : dueRuns { s with divCount := n } = dueRuns s := rfl

/-- No expiry is due after a cycle of CLK (logs 3 and 4). -/
theorem dueRuns_clkCycle {s : State} (h : s.resetN = true) : dueRuns (clkCycle s) = [] := by
  rcases Nat.lt_or_ge (s.divCount + 1) s.timebaseDiv.toNat with hdiv | hdiv
  · rw [clkCycle_counts h hdiv, dueRuns_divCount]
    exact dueRuns_none_of_taken (takeDueExpiries_taken s)
  · rw [clkCycle_increments h hdiv]
    exact dueRuns_none_of_taken (takeDueExpiries_taken _)

/-- Settles O2: a cycle below the divider counts after the due expiries; one that reaches it increments between the
expiries due before and after. -/
theorem stepWithoutCommandIsOneClkCycle : Obligations.StepWithoutCommandIsOneClkCycle := by
  intro s hempty
  rw [step_of_no_command hempty]
  refine ⟨fun hdown => congrArg _ (clkCycle_down hdown), fun hup hdiv => ?_, fun hup hdiv => ?_, fun hup t ht => ?_⟩
  · rw [clkCycle_counts hup hdiv]
    exact ⟨⟨_, takeDueExpiries_taken s, rfl⟩, fun hnone => by rw [takeDueExpiries_none hnone]⟩
  · rw [clkCycle_increments hup hdiv]
    refine ⟨⟨_, _, takeDueExpiries_taken s, takeDueExpiries_taken _, rfl⟩, fun hbefore hafter => ?_⟩
    rw [takeDueExpiries_none hbefore]
    exact congrArg _ (takeDueExpiries_none hafter)
  · cases ht
    exact dueRuns_clkCycle hup

end Sys2Proof.ChannelEngines
end

section
/-! SUPPORT. The channel commands: ARM and its checks in order, ABORT, and the codes that are neither (R40 to R43). -/

namespace Sys2Proof.ChannelEngines

open Sys2Proof Sys2Proof.Machine Sys2Proof.Safety Sys2Proof.MeasurementPlan

/-! ### The commands: the word is forwarded, then taken (R167) -/

theorem exec_arm (ch : ChanNo) (arg : BitVec 24) {s : State} (h : s.resetN = true) :
    exec (.arm ch arg) s = .next (channelArm ch arg (sentWord s (0x41000 + ch.val * 4) (1#8 ++ arg))) :=
  next_whileUp h

theorem exec_abort (ch : ChanNo) (arg : BitVec 24) {s : State} (h : s.resetN = true) :
    exec (.abort ch arg) s = .next (channelAbort ch (sentWord s (0x41000 + ch.val * 4) (2#8 ++ arg))) :=
  next_whileUp h

/-! ### The checks of an ARM (R41) -/

/-- A source is tripped where its latched set holds a kind (R133). -/
theorem sourceTripped_iff (s : State) (e : Entry) : s.sourceTripped e = true ↔
    (s.src e.host.source).trips.overI = true ∨ (s.src e.host.source).trips.overV = true ∨
      (s.src e.host.source).trips.overP = true := by
  simp [State.sourceTripped, TripSet.nonempty, or_assoc]

section
variable {s : State} {ch : ChanNo} {n : Nat}

theorem armResult_of_pending (h : s.resetPending = true) : s.armResult ch n = .busy := by
  simp [State.armResult, h]

theorem armResult_of_busy (h : (s.ch ch).state ≠ .idle) : s.armResult ch n = .busy := by
  simp [State.armResult, isIdle_iff, h]

variable (hreset : s.resetPending = false) (hidle : (s.ch ch).state = .idle)
include hreset hidle

/-- Past a pending plan reset and a busy channel an ARM is checked against its step (R41). -/
theorem armResult_of_idle : s.armResult ch n =
    if 8191 ≤ n then .badStep else if !(s.entry n).valid then .invalidStep
    else if s.sourceTripped (s.entry n) then .guarded else .done := by
  simp [State.armResult, (isIdle_iff _).2 hidle, hreset]

theorem armResult_of_badStep (h : 8191 ≤ n) : s.armResult ch n = .badStep := by
  rw [armResult_of_idle hreset hidle, if_pos h]

theorem armResult_of_invalid (hn : n < 8191) (h : (s.entry n).valid = false) : s.armResult ch n = .invalidStep := by
  rw [armResult_of_idle hreset hidle, if_neg (by omega), h]
  rfl

/-- An ARM of a valid step answers GUARDED where the step's source is tripped, and DONE where it is not (R41). -/
theorem armResult_of_valid (hn : n < 8191) (h : (s.entry n).valid = true) :
    s.armResult ch n = if s.sourceTripped (s.entry n) then .guarded else .done := by
  rw [armResult_of_idle hreset hidle, if_neg (by omega), h]
  rfl

end

/-! ### ARM (R41, R42) -/

/-- An ARM that a check refuses sets the result alone (R41). -/
theorem channelArm_refused {ch : ChanNo} {arg : BitVec 24} {s : State} {r : ResultCode}
    (hr : s.armResult ch arg.toNat = r) (hne : r ≠ .done) :
    channelArm ch arg s = s.setCh ch { s.ch ch with lastResult := r } := by
  subst hr
  exact if_neg hne

/-- An ARM that every check passes starts the run (R42). -/
theorem channelArm_done {ch : ChanNo} {arg : BitVec 24} {s : State} (hr : s.armResult ch arg.toNat = .done) :
    channelArm ch arg s = setResult ch .done (startRun ch (arg.setWidth 13) s) := if_pos hr

theorem setResult_ch_same (ch : ChanNo) (r : ResultCode) (s : State) :
    (setResult ch r s).ch ch = { s.ch ch with lastResult := r } := setCh_ch_same s ch _

theorem setResult_ch_other {ch j : ChanNo} (r : ResultCode) (s : State) (h : j ≠ ch) :
    (setResult ch r s).ch j = s.ch j := setCh_ch_other s ch j _ h.symm

/-- The context of the channel that starts a run (R10, R42). -/
theorem startRun_ch_same (ch : ChanNo) (n : StepNo) (s : State) :
    (startRun ch n s).ch ch = started (s.ch ch) (snapshotOf s n) s.timebase s.band.current := by
  rw [← start_eq]
  exact setCh_ch_same _ ch _

theorem startRun_ch_other {ch j : ChanNo} (n : StepNo) (s : State) (h : j ≠ ch) :
    (startRun ch n s).ch j = s.ch j := setCh_ch_other _ ch j _ h.symm

/-- One run more is in flight on the entry, and on no other (R12). -/
theorem startRun_entry (ch : ChanNo) (n : StepNo) (s : State) (m : Nat) : (startRun ch n s).entry m =
    if n.toNat = m then { s.entry n.toNat with runs := (s.entry n.toNat).runs + 1 } else s.entry m :=
  setEntry_entry s n.toNat m _

/-- A step number below 8191 is the argument's low 13 bits. -/
theorem toNat_setWidth13 {arg : BitVec 24} (h : arg.toNat < 8191) : (arg.setWidth 13 : StepNo).toNat = arg.toNat := by
  rw [BitVec.toNat_setWidth]
  omega

/-- Settles O22: forwarding the word leaves what the checks of R41 read, so each refusal is the first that applies. -/
theorem armStartsARunOrAnswersTheFirstRefusal : Obligations.ArmStartsARunOrAnswersTheFirstRefusal := by
  intro ch arg s hup n f answers trips tripped
  have hsame : s.armResult ch n = f.armResult ch n := rfl
  have hanswers {r : ResultCode} (hr : s.armResult ch n = r) (hne : r ≠ .done) : answers r :=
    (exec_arm ch arg hup).trans (congrArg _ (channelArm_refused (s := f) hr hne))
  have htrips : s.sourceTripped (s.entry n) = true ↔ tripped := sourceTripped_iff s _
  refine ⟨fun h => hanswers (armResult_of_pending h) nofun, fun _ h => hanswers (armResult_of_busy h) nofun,
    fun hp hi h => hanswers (armResult_of_badStep hp hi h) nofun,
    fun hp hi hn h => hanswers (armResult_of_invalid hp hi hn h) nofun,
    fun hp hi hn hv h => hanswers ((armResult_of_valid hp hi hn hv).trans (if_pos (htrips.2 h))) nofun,
    fun hp hi hn hv h => ?_⟩
  have hdone : f.armResult ch n = .done := (armResult_of_valid hp hi hn hv).trans (if_neg (h ∘ htrips.1))
  have hstep : (arg.setWidth 13 : StepNo).toNat = n := toNat_setWidth13 hn
  refine ⟨_, (exec_arm ch arg hup).trans (congrArg _ (channelArm_done hdone)), ?_, fun j hj => ?_, ?_, fun m hm => ?_,
    rfl⟩
  · rw [setResult_ch_same, startRun_ch_same]
    rfl
  · rw [setResult_ch_other _ _ hj, startRun_ch_other _ _ hj]
    rfl
  · exact (startRun_entry ch _ f n).trans (by rw [if_pos hstep, hstep]; rfl)
  · exact (startRun_entry ch _ f m).trans (if_neg (by omega))

/-! ### ABORT (R43) -/

theorem channelAbort_idle {ch : ChanNo} {s : State} (h : (s.ch ch).state = .idle) :
    channelAbort ch s = s.setCh ch { s.ch ch with lastResult := .badState } := by
  unfold channelAbort
  rw [h]
  rfl

theorem channelAbort_holding {ch : ChanNo} {s : State} (h : (s.ch ch).state = .holding) :
    channelAbort ch s = s.setCh ch { s.ch ch with chainSuppressed := true, lastResult := .done } := by
  unfold channelAbort setResult
  rw [h]
  dsimp only
  rw [setCh_ch_same, RunKept.setCh_setCh]

/-- ABORT of a run in flight ends it (R43). -/
theorem channelAbort_inFlight {ch : ChanNo} {s : State} (h : Channel.inFlight (s.ch ch) = true) :
    channelAbort ch s = setResult ch .done (endRun ch (Ending.plain .aborted) s) := by
  unfold Channel.inFlight at h
  unfold channelAbort
  cases hstate : (s.ch ch).state with
  | idle | holding => rw [hstate] at h; cases h
  | seeking | settling | averaging => rfl

/-- A run that ends with ABORTED has its chain suppressed (R53). -/
theorem aborted_suppresses {ch : ChanNo} {c : Channel} {sn : Snapshot} {n : Nat} {s t : State}
    (h : EndedUnjudged ch c sn .aborted n s t) : (t.ch ch).chainSuppressed = true := by
  rw [RunEnded.context h]
  exact Bool.or_true _

/-- Settles O23: one case for each group of states of the channel. -/
theorem abortEndsOrSuppresses : Obligations.AbortEndsOrSuppresses := by
  intro ch arg s hup f
  rw [exec_abort ch arg hup]
  refine ⟨fun h => congrArg _ (channelAbort_idle (s := f) h), fun h => congrArg _ (channelAbort_holding (s := f) h),
    fun sn hflies hsnap => ?_⟩
  have hended : EndedUnjudged ch (s.ch ch) sn .aborted 0 f (endRun ch (Ending.plain .aborted) f) :=
    endRun_plain (s := f) _ hsnap
  exact ⟨_, _, congrArg _ (channelAbort_inFlight (s := f) hflies), hended, rfl, aborted_suppresses hended⟩

end Sys2Proof.ChannelEngines
end

section
/-! SUPPORT. The codes that are no command, and the device commands while a plan reset is pending; PLAN_RESET and its
completion (R40, R122, R169 to R173). -/

namespace Sys2Proof.ChannelEngines

open Sys2Proof Sys2Proof.Machine Sys2Proof.Safety Sys2Proof.MeasurementPlan

/-! ### The codes -/

theorem unknownChOp_iff (op : BitVec 8) : unknownChOp op = true ↔ op.toNat ≠ 1 ∧ op.toNat ≠ 2 := by
  simp [unknownChOp, ← BitVec.toNat_inj]

theorem unknownDevOp_iff (op : BitVec 8) : unknownDevOp op = true ↔ op.toNat = 0 ∨ 6 ≤ op.toNat := by
  simp [unknownDevOp, ← BitVec.toNat_inj]

/-- A channel command with an unknown code is forwarded and answers BAD_ARG (R40). -/
theorem exec_chCmdUnknown (ch : ChanNo) {op : BitVec 8} (arg : BitVec 24) {s : State} (h : s.resetN = true)
    (hop : unknownChOp op = true) : exec (.chCmdUnknown ch op arg) s =
      .next (setResult ch .badArg (sentWord s (0x41000 + ch.val * 4) (op ++ arg))) :=
  (congrArg Host.Outcome.next (if_pos hop)).trans (next_whileUp h)

/-- A device command with an unknown code is forwarded and taken as none (R169). -/
theorem exec_devCmdUnknown {op : BitVec 8} (arg : BitVec 24) {s : State} (h : s.resetN = true)
    (hop : unknownDevOp op = true) :
    exec (.devCmdUnknown op arg) s = .next (devUnknown (sentWord s 0x41020 (op ++ arg))) :=
  (congrArg Host.Outcome.next (if_pos hop)).trans (next_whileUp h)

theorem exec_planReset (arg : BitVec 24) {s : State} (h : s.resetN = true) :
    exec (.planReset arg) s = .next (devPlanReset (sentWord s 0x41020 (1#8 ++ arg))) := next_whileUp h

theorem exec_boardOpen (arg : BitVec 24) {s : State} (h : s.resetN = true) :
    exec (.boardOpen arg) s = .next (devBoardOpen arg (sentWord s 0x41020 (2#8 ++ arg))) := next_whileUp h

theorem exec_boardClose (arg : BitVec 24) {s : State} (h : s.resetN = true) :
    exec (.boardClose arg) s = .next (devBoardClose (sentWord s 0x41020 (3#8 ++ arg))) := next_whileUp h

theorem exec_learnClear (arg : BitVec 24) {s : State} (h : s.resetN = true) :
    exec (.learnClear arg) s = .next (devLearnClear arg (sentWord s 0x41020 (4#8 ++ arg))) := next_whileUp h

theorem exec_guardClear (arg : BitVec 24) {s : State} (h : s.resetN = true) :
    exec (.guardClear arg) s = .next (devGuardClear arg (sentWord s 0x41020 (5#8 ++ arg))) := next_whileUp h

/-! ### A pending plan reset (R169, R172) -/

/-- While a plan reset is pending a device command answers BUSY, whichever it is. -/
theorem deviceCommand_pending {f : State → State} {s : State} (h : s.resetPending = true) :
    deviceCommand f s = { s with devResult := .busy } := if_pos h

/-- Without a pending plan reset a device command acts. -/
theorem deviceCommand_free {f : State → State} {s : State} (h : s.resetPending = false) : deviceCommand f s = f s := by
  rw [deviceCommand, h]
  rfl

/-- Settles O24: every device command is a `deviceCommand`, which a pending plan reset answers BUSY. -/
theorem unknownAndBusyCommands : Obligations.UnknownAndBusyCommands := by
  intro op arg s hup
  refine ⟨fun ch h1 h2 => exec_chCmdUnknown ch arg hup ((unknownChOp_iff op).2 ⟨h1, h2⟩), fun hop hfree => ?_,
    fun hpend => ⟨fun hop => ?_, ?_, ?_, ?_, ?_, ?_⟩⟩
  · rw [exec_devCmdUnknown arg hup ((unknownDevOp_iff op).2 hop)]
    exact congrArg _ (deviceCommand_free hfree)
  · rw [exec_devCmdUnknown arg hup ((unknownDevOp_iff op).2 hop)]
    exact congrArg _ (deviceCommand_pending hpend)
  · exact (exec_planReset arg hup).trans (congrArg _ (deviceCommand_pending hpend))
  · exact (exec_boardOpen arg hup).trans (congrArg _ (deviceCommand_pending hpend))
  · exact (exec_boardClose arg hup).trans (congrArg _ (deviceCommand_pending hpend))
  · exact (exec_learnClear arg hup).trans (congrArg _ (deviceCommand_pending hpend))
  · exact (exec_guardClear arg hup).trans (congrArg _ (deviceCommand_pending hpend))

/-! ### PLAN_RESET (R171) -/

theorem devPlanReset_writing {s : State} (hfree : s.resetPending = false) (h : s.writer.state = .writing) :
    devPlanReset s = { s with resetPending := true, devResult := .pending } :=
  (deviceCommand_free hfree).trans (if_pos h)

theorem devPlanReset_completes {s : State} (hfree : s.resetPending = false) (h : s.writer.state ≠ .writing) :
    devPlanReset s = completePlanReset s := (deviceCommand_free hfree).trans (if_neg h)

/-! ### The response that completes a pending plan reset (R122, R173) -/

theorem recordOkay_pending {s : State} (h : s.resetPending = true) : recordOkay s = completePlanReset s := if_pos h

theorem producerOkay_pending {s : State} (h : s.resetPending = true) : producerOkay s = completePlanReset s := if_pos h

theorem writeError_pending (k : WriteKind) (e : ErrResp) {s : State} (h : s.resetPending = true) :
    writeError k e s = completePlanReset s := if_pos h

/-- The response to either write is one that the writer awaits. -/
theorem awaitsAny_of_awaits {w : Writer} {k : WriteKind} (h : Writer.awaits w k = true) : Writer.awaitsAny w = true := by
  cases k <;> simp [Writer.awaitsAny, h]

section
variable {s : State} (hup : s.resetN = true)
include hup

/-- PLAN_RESET_COMPLETION takes the response to the write in flight, whatever it is (R122). -/
theorem exec_planResetCompletion {k : WriteKind} (resp : Resp) (hpend : s.resetPending = true)
    (hw : Writer.awaits s.writer k = true) :
    exec (.planResetCompletion resp .sinceReset) s = .next (completePlanReset s) :=
  (next_whileUp hup).trans (congrArg _ (if_pos ⟨rfl, hpend, awaitsAny_of_awaits hw⟩))

theorem exec_recordWriteOkay (hw : Writer.awaits s.writer .record = true) :
    exec (.recordWriteOkay .sinceReset) s = .next (recordOkay s) :=
  (next_whileUp hup).trans (congrArg _ (if_pos ⟨rfl, hw⟩))

theorem exec_publication (hw : Writer.awaits s.writer .producerWord = true) :
    exec (.publication .sinceReset) s = .next (producerOkay s) :=
  (next_whileUp hup).trans (congrArg _ (if_pos ⟨rfl, hw⟩))

/-- An error response is taken for the kind of write that awaits it (R116). -/
theorem exec_writeErrorResponse {k : WriteKind} (e : ErrResp) (hw : Writer.awaits s.writer k = true) :
    exec (.writeErrorResponse e .sinceReset) s = .next (writeError k e s) := by
  refine (next_whileUp hup).trans (congrArg _ ?_)
  cases k with
  | record => exact if_pos ⟨rfl, hw⟩
  | producerWord =>
    have hnot : Writer.awaits s.writer .record ≠ true := fun hr => by
      obtain ⟨-, f, hf, hkind, -⟩ := (awaits_iff _ _).1 hr
      obtain ⟨-, g, hg, hother, -⟩ := (awaits_iff _ _).1 hw
      cases hf.symm.trans hg
      cases hkind.symm.trans hother
    exact (if_neg fun h => hnot h.2).trans (if_pos ⟨rfl, hw⟩)

end

/-- Settles O25: outside WRITING the act is `completePlanReset`, and so it is by each command that brings the response. -/
theorem planResetPendsOrCompletes : Obligations.PlanResetPendsOrCompletes := by
  intro arg s hup hwf f
  rw [exec_planReset arg hup]
  refine ⟨fun hfree hw => congrArg _ (devPlanReset_writing (s := f) hfree hw), fun hfree hw =>
    ⟨_, congrArg _ (devPlanReset_completes (s := f) hfree hw), completePlanReset_done (s := f) hwf⟩,
    fun fl hpend hw hflight hphase => ?_⟩
  have hawaits {k : WriteKind} (hk : fl.kind = k) : Writer.awaits s.writer k = true :=
    (awaits_iff _ _).2 ⟨hw, fl, hflight, hk, hphase⟩
  refine ⟨_, completePlanReset_done hwf, fun resp => exec_planResetCompletion hup resp hpend (hawaits rfl),
    fun hk => ?_, fun hk => ?_, fun e => ?_⟩
  · rw [exec_recordWriteOkay hup (hawaits hk), recordOkay_pending hpend]
  · rw [exec_publication hup (hawaits hk), producerOkay_pending hpend]
  · rw [exec_writeErrorResponse hup e (hawaits rfl), writeError_pending _ e hpend]

end Sys2Proof.ChannelEngines
end

section
/-! SUPPORT. Samples and strays: what a tap event hands to the channel's engine, and what the engine does with it in each
state (R23 to R25, R44 to R50, R55, R60). -/

namespace Sys2Proof.ChannelEngines

open Sys2Proof Sys2Proof.Machine Sys2Proof.Safety Sys2Proof.MeasurementPlan

/-! ### What reaches the engine (R24, R25) -/

theorem wordOf_toNat (a : Addr) : (wordOf a).toNat = a.toNat / 4 * 4 := by
  have haligned := Kept.wordOf_aligned a
  have hdiv : (wordOf a).toNat / 2 ^ 2 = a.toNat / 2 ^ 2 := by
    have ha := a.isLt
    have hmask : (0xFFFFFFFC#32).toNat / 2 ^ 2 = 2 ^ 30 - 1 := rfl
    rw [wordOf, BitVec.toNat_and, Nat.and_div_two_pow, hmask, Nat.and_two_pow_sub_one_eq_mod]
    omega
  omega

/-- A word address is its own aligned word. -/
theorem wordOf_eq_self {a : Addr} (h : a.toNat % 4 = 0) : wordOf a = a :=
  BitVec.eq_of_toNat_eq (by rw [wordOf_toNat]; omega)

/-- A full word at the cursor is forwarded, moves the cursor, and goes to the engine (R23, R24). -/
theorem exec_inSequenceSample {ch : ChanNo} (w : Word) {s : State} (h : s.resetN = true)
    (hc : s.classify (s.tap ch).cursor = .sample ch) :
    exec (.inSequenceSample ch w) s = .next (engineSample ch w (sampleTaken s ch w)) :=
  (next_whileUp h).trans (congrArg _ (if_pos hc))

/-- A present word of the window that is no full word at the cursor is a stray (R24, R25). -/
theorem isSampleStray_of {s : State} {ch : ChanNo} {a : Addr} {strb : BitVec 4} (hc : s.classify a = .sample ch)
    (h4 : a.toNat % 4 = 0) (h0 : strb ≠ 0#4) (hno : ¬ (strb = 15#4 ∧ a = (s.tap ch).cursor)) :
    s.isSampleStray ch a strb = true := by
  have hpresent : absentStrobe strb = false := Bool.eq_false_iff.2 (h0 ∘ (absentStrobe_iff strb).1)
  have hoff : (fullStrobe strb && a == (s.tap ch).cursor) = false :=
    Bool.eq_false_iff.2 fun h => hno (by simpa [fullStrobe_iff] using h)
  simp [State.isSampleStray, hc, wordOf_eq_self h4, hpresent, hoff]

/-- A stray is forwarded with its strobes, moves the cursor after it, and goes to the engine (R25). -/
theorem exec_sampleStray {ch : ChanNo} {a : Addr} {strb : BitVec 4} (w : Word) {s : State} (h : s.resetN = true)
    (hstray : s.isSampleStray ch a strb = true) :
    exec (.sampleStray ch a strb w) s = .next (engineStray ch (strayTaken s ch a strb w)) :=
  (next_whileUp h).trans (congrArg _ (if_pos hstray))

/-! ### The engine by state -/

section
variable {s : State} {ch : ChanNo} {sn : Snapshot}

theorem engineSample_idle (w : Word) (h : (s.ch ch).state = .idle) : engineSample ch w s = s := by
  simp only [engineSample, h]

theorem engineSample_holding (w : Word) (h : (s.ch ch).state = .holding) :
    engineSample ch w s = s.setCh ch { s.ch ch with touchHeld := false } := by
  simp only [engineSample, Channel.heldTouch, h]

theorem engineSample_seeking (w : Word) (h : (s.ch ch).state = .seeking) (hs : (s.ch ch).snapshot = some sn) :
    engineSample ch w s = seekSample ch sn w s := by
  simp only [engineSample, h, hs]

theorem engineSample_settling (w : Word) (h : (s.ch ch).state = .settling) (hs : (s.ch ch).snapshot = some sn) :
    engineSample ch w s = settleSample ch sn w s := by
  simp only [engineSample, h, hs]

theorem engineSample_averaging (w : Word) (h : (s.ch ch).state = .averaging) (hs : (s.ch ch).snapshot = some sn) :
    engineSample ch w s = averageSample ch sn w s := by
  simp only [engineSample, h, hs]

theorem engineStray_idle (h : (s.ch ch).state = .idle) : engineStray ch s = s := by
  simp only [engineStray, Channel.heldTouch, h]

theorem engineStray_holding (h : (s.ch ch).state = .holding) :
    engineStray ch s = s.setCh ch { s.ch ch with touchHeld := false } := by
  simp only [engineStray, Channel.heldTouch, h]

/-- A stray in SEEKING is no retry (R44). -/
theorem engineStray_seeking (h : (s.ch ch).state = .seeking) :
    engineStray ch s = s.setCh ch { s.ch ch with touchHeld := false, touchRun := 0 } := by
  simp only [engineStray, Channel.heldTouch, h]

/-- A retry of a run from its context without touch, which the event has set (R50, R55). -/
theorem retry_untouched (cause : RetryCause) (hs : (s.ch ch).snapshot = some sn) :
    let u := s.setCh ch { s.ch ch with touchHeld := false }
    RetryTaken ch { s.ch ch with touchHeld := false } sn cause (RetryCause.outcome cause) 0 u
      (retry ch sn cause 0 u) :=
  retry_taken (setCh_ch_same s ch _) hs

/-- A stray in SETTLING and AVERAGING is a retry with SEQUENCE (R45, R47). -/
theorem engineStray_sequence (h : (s.ch ch).state = .settling ∨ (s.ch ch).state = .averaging)
    (hs : (s.ch ch).snapshot = some sn) :
    RetryTaken ch { s.ch ch with touchHeld := false } sn .sequence .sequence 0
      (s.setCh ch { s.ch ch with touchHeld := false }) (engineStray ch s) := by
  have hretry : engineStray ch s = retry ch sn .sequence 0 (s.setCh ch { s.ch ch with touchHeld := false }) := by
    rcases h with h | h <;> simp only [engineStray, Channel.heldTouch, h, hs]
  rw [hretry]
  exact retry_untouched .sequence hs

/-! ### SEEKING (R44) -/

/-- A touch sample counts, and the one that reaches the contact run confirms contact and starts settling. -/
theorem seekSample_touch {w : Word} (ht : sampleTouch w = true) : seekSample ch sn w s =
    if (s.ch ch).touchRun + 1 = sn.host.contactRun.toNat then
      s.setCh ch (settling { s.ch ch with
        touchHeld := true, touchRun := (s.ch ch).touchRun + 1, contactSeen := true } sn.host.settle.toNat
        s.band.current)
    else s.setCh ch { s.ch ch with touchHeld := true, touchRun := (s.ch ch).touchRun + 1 } := by
  rw [← settle_eq]
  simp only [seekSample, ht]
  rfl

/-- A sample without touch starts the contact run again, and is no retry. -/
theorem seekSample_noTouch {w : Word} (ht : sampleTouch w = false) :
    seekSample ch sn w s = s.setCh ch { s.ch ch with touchHeld := false, touchRun := 0 } := by
  simp only [seekSample, ht]
  rfl

/-! ### SETTLING (R45) -/

/-- A touch sample is discarded, and the last one to discard leads to AVERAGING (R45, R46). -/
theorem settleSample_touch {w : Word} (ht : sampleTouch w = true) : settleSample ch sn w s =
    if (s.ch ch).settleLeft - 1 = 0 then
      s.setCh ch (noSet { s.ch ch with
        touchHeld := true, settleLeft := (s.ch ch).settleLeft - 1, state := .averaging, latchedBand := s.band.current })
    else s.setCh ch { s.ch ch with touchHeld := true, settleLeft := (s.ch ch).settleLeft - 1 } := by
  simp only [settleSample, ht]
  rfl

theorem settleSample_noTouch {w : Word} (ht : sampleTouch w = false) :
    settleSample ch sn w s = retry ch sn .lostContact 0 (s.setCh ch { s.ch ch with touchHeld := false }) := by
  simp only [settleSample, ht]
  rfl

/-! ### AVERAGING (R47, R48) -/

theorem averageSample_noTouch {w : Word} (ht : sampleTouch w = false) :
    averageSample ch sn w s = retry ch sn .lostContact 0 (s.setCh ch { s.ch ch with touchHeld := false }) := by
  simp only [averageSample, ht]
  rfl

/-- A touch sample joins the set where its range is the set's, or the set has none; on another range it restarts settling
(R47, R48). -/
theorem averageSample_touch {w : Word} (ht : sampleTouch w = true) : averageSample ch sn w s =
    if (s.ch ch).firstRange = none ∨ (s.ch ch).firstRange = some (sampleRange w) then
      joinSet ch sn w { s.ch ch with touchHeld := true } s
    else s.setCh ch (settling (noSet { s.ch ch with touchHeld := true }) sn.host.settle.toNat s.band.current) := by
  rw [← settle_eq]
  simp only [averageSample, ht]
  rfl

section
variable {w : Word} (ht : sampleTouch w = true)
  (hrange : (s.ch ch).firstRange = none ∨ (s.ch ch).firstRange = some (sampleRange w))
include ht hrange

/-- A sample short of the last joins the set with its normalised value (R29, R47). -/
theorem averageSample_short (h : (s.ch ch).averaged + 1 ≠ HostFields.samples sn.host) : averageSample ch sn w s =
    s.setCh ch (Channel.addValue { s.ch ch with touchHeld := true } (s.normalise w) (sampleRange w)) := by
  rw [averageSample_touch ht, if_pos hrange]
  exact if_neg h

/-- The last sample completes the set that it joins (R47). -/
theorem averageSample_last {c : Channel} (h : (s.ch ch).averaged + 1 = HostFields.samples sn.host)
    (hc : Channel.addValue { s.ch ch with touchHeld := true } (s.normalise w) (sampleRange w) = c) :
    averageSample ch sn w s = completeSet ch sn (s.setCh ch c) := by
  subst hc
  rw [averageSample_touch ht, if_pos hrange]
  exact if_pos h

end

/-! ### The completed set (R49) -/

/-- A set whose spread is over the limit is a retry with NOISY (R49). -/
theorem completeSet_noisy (h : sn.host.spreadLimit.toNat ≠ 0 ∧ sn.host.spreadLimit.toNat < Channel.spread (s.ch ch)) :
    completeSet ch sn s = retry ch sn .noisy (Channel.spread (s.ch ch)) s := if_pos h

/-- Any other set is judged (R49). -/
theorem completeSet_judged
    (h : sn.host.spreadLimit.toNat = 0 ∨ Channel.spread (s.ch ch) ≤ sn.host.spreadLimit.toNat) :
    completeSet ch sn s = judgeSet ch sn s := if_neg (by omega)

/-- The compensated value of a completed set (R49, R67). -/
def setValue (s : State) (c : Channel) (sn : Snapshot) : Int :=
  compensate (averageOf c.sum.toInt (HostFields.samples sn.host)) (s.coefficient sn.host.kind c.latchedBand)

/-- The verdict of a judged set of value `v`: the record of R54 with what the qualifier gives back (R65). -/
def judgedVerdict (s : State) (ch : ChanNo) (c : Channel) (sn : Snapshot) (v : Int) : Verdict :=
  { unjudged s ch c sn (qualify s sn v).outcome (Channel.spread c) with
    value := BitVec.ofInt 32 v, stale := (qualify s sn v).stale, repeated := (qualify s sn v).repeated,
    noBoard := (qualify s sn v).noBoard }

/-- An end of a run from a state with another learn record of the run's entry is an end from the state itself. -/
theorem RunEnded_of_setLearn {c : Channel} {v : Verdict} {l k : LearnRecord} {t : State}
    (h : RunEnded ch c sn v l (s.setEntry sn.step.toNat { s.entry sn.step.toNat with learn := k }) t) :
    RunEnded ch c sn v l s t where
  context := h.context
  others := h.others
  runs := by rw [h.runs, setEntry_entry_same]
  entries n hn := by rw [h.entries n hn, setEntry_entry_other _ _ _ _ hn.symm]
  joined := ⟨h.joined.queue, h.joined.begins, h.joined.stays⟩
  frame := .trans (.setEntry s _ _) h.frame

/-- A judged set ends the run with the qualifier's outcome, and its entry takes the qualifier's learn record (R49, R53,
R65). -/
theorem judgeSet_ended (hs : (s.ch ch).snapshot = some sn) :
    RunEnded ch (s.ch ch) sn (judgedVerdict s ch (s.ch ch) sn (setValue s (s.ch ch) sn))
      (qualify s sn (setValue s (s.ch ch) sn)).learn s (judgeSet ch sn s) := by
  set q := qualify s sn (setValue s (s.ch ch) sn)
  have hended := endRun_ended (s := s.setEntry sn.step.toNat { s.entry sn.step.toNat with learn := q.learn }) (ch := ch)
    { outcome := q.outcome, value := BitVec.ofInt 32 (setValue s (s.ch ch) sn), spread := Channel.spread (s.ch ch),
      stale := q.stale, repeated := q.repeated, noBoard := q.noBoard } hs
  rw [setEntry_entry_same] at hended
  exact RunEnded_of_setLearn hended

end

/-- The coefficient of one of the six kinds of the table (R67, R68). -/
theorem coefficient_eq (s : State) {kind : BitVec 3} {k : Fin 6} (h : kind.toNat = k.val) (band : Band) :
    s.coefficient kind band = (s.comp[k.val * 4 + Band.code band]'(by
      cases band <;> simp only [Band.code] <;> omega)).toInt := by
  rw [State.coefficient, dif_pos (by omega)]
  simp only [h]

/-! ### The statements -/

/-- Settles O32: the engine's act in IDLE, HOLDING and SEEKING, on the state that the tap event leaves. -/
theorem samplesOutsideARunAndWhileSeeking : Obligations.SamplesOutsideARunAndWhileSeeking := by
  refine ⟨fun ch w a strb s hup => ⟨fun hc => ?_, fun hc h4 h0 hno => ?_⟩,
    fun ch w a strb sn s hup hst hs => ⟨fun hc => ?_, fun hc h4 h0 hno => ?_⟩⟩
  · rw [exec_inSequenceSample w hup hc]
    exact ⟨fun hst => congrArg _ (engineSample_idle (s := sampleTaken s ch w) w hst),
      fun hst => congrArg _ (engineSample_holding (s := sampleTaken s ch w) w hst)⟩
  · rw [exec_sampleStray w hup (isSampleStray_of hc h4 h0 hno)]
    exact ⟨fun hst => congrArg _ (engineStray_idle (s := strayTaken s ch a strb w) hst),
      fun hst => congrArg _ (engineStray_holding (s := strayTaken s ch a strb w) hst)⟩
  · rw [exec_inSequenceSample w hup hc, engineSample_seeking (s := sampleTaken s ch w) w hst hs]
    refine ⟨fun ht hrun => congrArg _ ?_, fun ht hrun => congrArg _ ?_,
      fun ht => congrArg _ (seekSample_noTouch (s := sampleTaken s ch w) ht)⟩
    · exact (seekSample_touch (s := sampleTaken s ch w) ht).trans (if_pos hrun)
    · exact (seekSample_touch (s := sampleTaken s ch w) ht).trans (if_neg hrun)
  · rw [exec_sampleStray w hup (isSampleStray_of hc h4 h0 hno)]
    exact congrArg _ (engineStray_seeking (s := strayTaken s ch a strb w) hst)

/-- Settles O33: a touch sample counts down, and anything else is a retry. -/
theorem samplesWhileSettling : Obligations.SamplesWhileSettling := by
  intro ch w a strb sn s hup hst hs c
  refine ⟨fun hc => ?_, fun hc h4 h0 hno =>
    ⟨_, exec_sampleStray w hup (isSampleStray_of hc h4 h0 hno),
      engineStray_sequence (s := strayTaken s ch a strb w) (.inl hst) hs⟩⟩
  rw [exec_inSequenceSample w hup hc, engineSample_settling (s := sampleTaken s ch w) w hst hs]
  refine ⟨fun ht hleft => congrArg _ ?_, fun ht hleft => congrArg _ ?_, fun ht => ⟨_, rfl, ?_⟩⟩
  · have hmore : c.settleLeft - 1 ≠ 0 := by omega
    exact (settleSample_touch (s := sampleTaken s ch w) ht).trans (if_neg hmore)
  · have hlast : c.settleLeft - 1 = 0 := by omega
    refine (settleSample_touch (s := sampleTaken s ch w) ht).trans ((if_pos hlast).trans ?_)
    exact congrArg (fun n => (sampleTaken s ch w).setCh ch (noSet { c with
      touchHeld := true, settleLeft := n, state := .averaging, latchedBand := s.band.current })) hlast
  · rw [settleSample_noTouch ht]
    exact retry_untouched (s := sampleTaken s ch w) .lostContact hs

/-- Settles O34: touch is judged before range, and range before the count of the set. -/
theorem samplesWhileAveraging : Obligations.SamplesWhileAveraging := by
  intro ch w a strb sn s hup hst hs c range x
  refine ⟨fun hc => ?_, fun hc h4 h0 hno =>
    ⟨_, exec_sampleStray w hup (isSampleStray_of hc h4 h0 hno),
      engineStray_sequence (s := strayTaken s ch a strb w) (.inr hst) hs⟩⟩
  rw [exec_inSequenceSample w hup hc, engineSample_averaging (s := sampleTaken s ch w) w hst hs]
  refine ⟨fun ht => ⟨_, rfl, ?_⟩, fun ht hother => congrArg _ ?_, fun ht hrange hshort => congrArg _ ?_⟩
  · rw [averageSample_noTouch ht]
    exact retry_untouched (s := sampleTaken s ch w) .lostContact hs
  · have hno : ¬ (c.firstRange = none ∨ c.firstRange = some range) := by
      obtain ⟨r, hr, hne⟩ := hother
      simp [hr, hne]
    exact (averageSample_touch (s := sampleTaken s ch w) ht).trans (if_neg hno)
  · exact averageSample_short (s := sampleTaken s ch w) ht hrange hshort

/-- Settles O35: the last sample completes the set, which is rejected for its spread or judged. -/
theorem theCompletingSampleJudgesTheSet : Obligations.TheCompletingSampleJudgesTheSet := by
  intro ch w sn s hup hst hs hc ht range n x c spread average u hlast hrange
  have hset : Channel.addValue { s.ch ch with touchHeld := true } x range = c :=
    congrArg (fun k => { Channel.addValue { s.ch ch with touchHeld := true } x range with averaged := k }) hlast
  have hexec : exec (.inSequenceSample ch w) s = .next (completeSet ch sn u) := by
    rw [exec_inSequenceSample w hup hc, engineSample_averaging (s := sampleTaken s ch w) w hst hs]
    exact congrArg _ (averageSample_last (s := sampleTaken s ch w) ht hrange hlast hset)
  have huc : u.ch ch = c := setCh_ch_same _ ch c
  have hspread : Channel.spread (u.ch ch) = spread := congrArg Channel.spread huc
  refine ⟨_, hexec, fun hnoisy => ?_, fun hquiet k hk => ?_⟩
  · rw [completeSet_noisy (by rwa [hspread]), hspread]
    exact retry_taken huc hs
  · intro coeff v q
    have hv : setValue u c sn = v :=
      congrArg (compensate (averageOf c.sum.toInt n)) (coefficient_eq u hk c.latchedBand)
    have hended := judgeSet_ended (s := u) (ch := ch) (sn := sn) (by rw [huc]; exact hs)
    rw [huc, hv] at hended
    rw [completeSet_judged (by rwa [hspread])]
    exact hended

end Sys2Proof.ChannelEngines
end

section
/-! SUPPORT. The configuration words that are taken at any time: those taken as written, and COMP, which is clamped
(R68, R76, R144, R179). -/

namespace Sys2Proof.Qualification

open Sys2Proof Sys2Proof.Machine Sys2Proof.Safety Sys2Proof.MeasurementPlan

/-! ### The commands: the word is forwarded, then taken (R167) -/

theorem exec_noticeEnableWrite (v : Word) {s : State} (h : s.resetN = true) :
    exec (.noticeEnableWrite v) s = .next (takeNoticeEnable v (sentWord s 0x40008 v)) := next_whileUp h

theorem exec_bandTWrite (i : Fin 3) (v : Word) {s : State} (h : s.resetN = true) :
    exec (.bandTWrite i v) s = .next (takeBandT i v (sentWord s (0x40020 + i.val * 4) v)) := next_whileUp h

theorem exec_bandHystWrite (v : Word) {s : State} (h : s.resetN = true) :
    exec (.bandHystWrite v) s = .next (takeBandHyst v (sentWord s 0x4002C v)) := next_whileUp h

theorem exec_compWrite (k : Fin 6) (b : Fin 4) (v : Word) {s : State} (h : s.resetN = true) :
    exec (.compWrite k b v) s = .next (takeComp k b v (sentWord s (0x40080 + (k.val * 4 + b.val) * 4) v)) :=
  next_whileUp h

theorem exec_moveBaseWrite (v : Word) {s : State} (h : s.resetN = true) :
    exec (.moveBaseWrite v) s = .next (takeMoveBase v (sentWord s 0x40200 v)) := next_whileUp h

theorem exec_moveLenWrite (v : Word) {s : State} (h : s.resetN = true) :
    exec (.moveLenWrite v) s = .next (takeMoveLen v (sentWord s 0x40204 v)) := next_whileUp h

theorem exec_motionIdWrite (v : Word) {s : State} (h : s.resetN = true) :
    exec (.motionIdWrite v) s = .next (takeMotionId v (sentWord s 0x40208 v)) := next_whileUp h

theorem exec_motionIdMaskWrite (v : Word) {s : State} (h : s.resetN = true) :
    exec (.motionIdMaskWrite v) s = .next (takeMotionIdMask v (sentWord s 0x4020C v)) := next_whileUp h

theorem exec_holdPatternWrite (v : Word) {s : State} (h : s.resetN = true) :
    exec (.holdPatternWrite v) s = .next (takeHoldPattern v (sentWord s 0x40210 v)) := next_whileUp h

/-! ### Fields at the low bits of a word -/

/-- A threshold word sets the threshold of its number, a signed 16-bit value at its low bits (R76, 10.5). -/
theorem takeBandT_eq (i : Fin 3) (v : Word) (s : State) : takeBandT i v s = { s with band :=
    match i with
    | 0 => { s.band with t1 := v.setWidth 16 }
    | 1 => { s.band with t2 := v.setWidth 16 }
    | 2 => { s.band with t3 := v.setWidth 16 } } := by
  rw [takeBandT, ← BitVec.setWidth_eq_extractLsb' (by decide)]
  fin_cases i <;> rfl

theorem takeBandHyst_eq (v : Word) (s : State) :
    takeBandHyst v s = { s with band := { s.band with hyst := v.setWidth 8 } } := by
  rw [takeBandHyst, ← BitVec.setWidth_eq_extractLsb' (by decide)]

theorem takeMotionId_eq (v : Word) (s : State) :
    takeMotionId v s = { s with move := { s.move with id := v.setWidth 16 } } := by
  rw [takeMotionId, ← BitVec.setWidth_eq_extractLsb' (by decide)]

theorem takeMotionIdMask_eq (v : Word) (s : State) :
    takeMotionIdMask v s = { s with move := { s.move with mask := v.setWidth 16 } } := by
  rw [takeMotionIdMask, ← BitVec.setWidth_eq_extractLsb' (by decide)]

/-- Settles O14: every word is forwarded at its offset and none has a check, so what each writes is read off. -/
theorem plainConfigurationWordsAreTaken : Obligations.PlainConfigurationWordsAreTaken := by
  intro v s hup
  have hbandT (i : Fin 3) := (exec_bandTWrite i v hup).trans (congrArg _ (takeBandT_eq i v _))
  exact ⟨exec_noticeEnableWrite v hup, hbandT 0, hbandT 1, hbandT 2,
    (exec_bandHystWrite v hup).trans (congrArg _ (takeBandHyst_eq v _)),
    exec_moveBaseWrite v hup, exec_moveLenWrite v hup,
    (exec_motionIdWrite v hup).trans (congrArg _ (takeMotionId_eq v _)),
    (exec_motionIdMaskWrite v hup).trans (congrArg _ (takeMotionIdMask_eq v _)),
    exec_holdPatternWrite v hup⟩

/-! ### COMP (R68) -/

/-- The clamped coefficient fits a word, so it is kept as the signed value that it is (R68). -/
theorem clampPpm_toInt (v : Word) : (clampPpm v).toInt =
    if v.toInt > 100000 then 100000 else if v.toInt < -100000 then -100000 else v.toInt := by
  rw [clampPpm, BitVec.toInt_ofInt_eq_self (by decide) (by omega) (by omega)]
  split_ifs <;> omega

/-- Settles O16: the clamp is read at the coefficient that COMP sets, and setting one leaves the other 23. -/
theorem compensationWordsAreClamped : Obligations.CompensationWordsAreClamped := by
  intro k b v s hup
  refine ⟨_, exec_compWrite k b v hup, ?_, fun i hi => ?_, rfl⟩
  · exact (congrArg BitVec.toInt (Vector.getElem_set_self (by omega))).trans (clampPpm_toInt v)
  · exact Vector.getElem_set_ne (by omega) i.isLt hi.symm

end Sys2Proof.Qualification
end

section
/-! SUPPORT. TEMP and the band selector: where each of the two passes of R78 stops, and the band that they place. -/

namespace Sys2Proof.Qualification

open Sys2Proof Sys2Proof.Machine Sys2Proof.Safety Sys2Proof.MeasurementPlan

theorem exec_tempWrite (v : Word) {s : State} (h : s.resetN = true) :
    exec (.tempWrite v) s = .next (takeTemp v (sentWord s 0x41028 v)) := next_whileUp h

theorem ordered_iff (b : BandSelector) :
    BandSelector.ordered b = true ↔ b.t1.toInt < b.t2.toInt ∧ b.t2.toInt < b.t3.toInt := by
  simp [BandSelector.ordered]

/-- With ordered thresholds TEMP records the temperature and moves the band (R77, R78). -/
theorem takeTemp_ordered {v : Word} {s : State} (ho : BandSelector.ordered s.band = true) :
    takeTemp v s = { s with band := { s.band with
      last := v.setWidth 16, noTempYet := false,
      current := BandSelector.move s.band (v.setWidth 16 : BitVec 16).toInt } } := by
  rw [takeTemp, ← BitVec.setWidth_eq_extractLsb' (by decide)]
  exact if_pos ho

/-- With thresholds out of order TEMP records the temperature and raises BAND_CONFIG (R77). -/
theorem takeTemp_unordered {v : Word} {s : State} (ho : ¬ BandSelector.ordered s.band = true) :
    takeTemp v s = { s with
      band := { s.band with last := v.setWidth 16, noTempYet := false },
      flags := { s.flags with bandConfig := true } } := by
  rw [takeTemp, ← BitVec.setWidth_eq_extractLsb' (by decide)]
  exact if_neg ho

/-- Of two conditions the stronger may be asked first. -/
theorem ite_stronger_first {p q : Prop} [Decidable p] [Decidable q] (hqp : q → p) (x y z : Band) :
    (if p then if q then x else y else z) = if q then x else if p then y else z := by
  by_cases hq : q
  · rw [if_pos (hqp hq), if_pos hq, if_pos hq]
  · rw [if_neg hq, if_neg hq]

section
variable {b : BandSelector} {t : Int}

/-! ### Pass 1: the highest band whose lower edge is passed by the hysteresis

With ordered thresholds an edge that is passed by the hysteresis has every lower edge passed too, so where the climb
stops can be asked from the top. -/

/-- One move of pass 1 (R78). -/
theorem climb_succ (n : Nat) {band : Band} {edge : Int} (h : BandSelector.upperEdge b band = some edge) :
    BandSelector.climb b t (n + 1) band =
      if edge + b.hyst.toNat ≤ t then BandSelector.climb b t n (Band.up band) else band := by
  rw [BandSelector.climb, h]

theorem climb_d (n : Nat) : BandSelector.climb b t n .d = .d := by cases n <;> rfl

theorem climb_c (n : Nat) : BandSelector.climb b t (n + 1) .c = if b.t3.toInt + b.hyst.toNat ≤ t then .d else .c :=
  (climb_succ n rfl).trans (ite_congr rfl (fun _ => climb_d n) fun _ => rfl)

theorem climb_b (ho : BandSelector.ordered b = true) (n : Nat) : BandSelector.climb b t (n + 2) .b =
    if b.t3.toInt + b.hyst.toNat ≤ t then .d else if b.t2.toInt + b.hyst.toNat ≤ t then .c else .b := by
  obtain ⟨-, h23⟩ := (ordered_iff b).1 ho
  rw [climb_succ (n + 1) rfl, Band.up, climb_c, ite_stronger_first (by omega)]

theorem climb_a (ho : BandSelector.ordered b = true) (n : Nat) : BandSelector.climb b t (n + 3) .a =
    if b.t3.toInt + b.hyst.toNat ≤ t then .d else if b.t2.toInt + b.hyst.toNat ≤ t then .c
      else if b.t1.toInt + b.hyst.toNat ≤ t then .b else .a := by
  obtain ⟨h12, h23⟩ := (ordered_iff b).1 ho
  rw [climb_succ (n + 2) rfl, Band.up, climb_b ho, ite_stronger_first (by omega), ite_stronger_first (by omega)]

/-! ### Pass 2: the highest band, no higher than the one that pass 1 left, whose lower edge is reached -/

/-- One move of pass 2 (R78). -/
theorem descend_succ (n : Nat) {band : Band} {edge : Int} (h : BandSelector.lowerEdge b band = some edge) :
    BandSelector.descend b t (n + 1) band =
      if edge ≤ t then band else BandSelector.descend b t n (Band.down band) := by
  simp only [BandSelector.descend, h, ← Int.not_le, ite_not]

theorem descend_a (n : Nat) : BandSelector.descend b t n .a = .a := by cases n <;> rfl

theorem descend_b (n : Nat) : BandSelector.descend b t (n + 1) .b = if b.t1.toInt ≤ t then .b else .a :=
  (descend_succ n rfl).trans (ite_congr rfl (fun _ => rfl) fun _ => descend_a n)

theorem descend_c (n : Nat) : BandSelector.descend b t (n + 2) .c =
    if b.t2.toInt ≤ t then .c else if b.t1.toInt ≤ t then .b else .a :=
  (descend_succ (n + 1) rfl).trans (ite_congr rfl (fun _ => rfl) fun _ => descend_b n)

theorem descend_d (n : Nat) : BandSelector.descend b t (n + 3) .d =
    if b.t3.toInt ≤ t then .d else if b.t2.toInt ≤ t then .c else if b.t1.toInt ≤ t then .b else .a :=
  (descend_succ (n + 2) rfl).trans (ite_congr rfl (fun _ => rfl) fun _ => descend_c n)

/-! ### The two passes together (R78)

A band that pass 1 has climbed to is kept by pass 2: its lower edge is passed by the hysteresis, so it is reached. -/

theorem descend_climbed_b (h : b.t1.toInt + b.hyst.toNat ≤ t) : BandSelector.descend b t 3 .b = .b :=
  (descend_b 2).trans (if_pos (by omega))

theorem descend_climbed_c (h : b.t2.toInt + b.hyst.toNat ≤ t) : BandSelector.descend b t 3 .c = .c :=
  (descend_c 1).trans (if_pos (by omega))

theorem descend_climbed_d (h : b.t3.toInt + b.hyst.toNat ≤ t) : BandSelector.descend b t 3 .d = .d :=
  (descend_d 0).trans (if_pos (by omega))

theorem move_from_a (ho : BandSelector.ordered b = true) (hc : b.current = .a) : BandSelector.move b t =
    if b.t3.toInt + b.hyst.toNat ≤ t then .d else if b.t2.toInt + b.hyst.toNat ≤ t then .c
      else if b.t1.toInt + b.hyst.toNat ≤ t then .b else .a := by
  rw [BandSelector.move, hc, climb_a ho, apply_ite (BandSelector.descend b t 3), apply_ite (BandSelector.descend b t 3),
    apply_ite (BandSelector.descend b t 3)]
  exact ite_congr rfl descend_climbed_d fun _ => ite_congr rfl descend_climbed_c fun _ =>
    ite_congr rfl descend_climbed_b fun _ => descend_a 3

theorem move_from_b (ho : BandSelector.ordered b = true) (hc : b.current = .b) : BandSelector.move b t =
    if b.t3.toInt + b.hyst.toNat ≤ t then .d else if b.t2.toInt + b.hyst.toNat ≤ t then .c
      else if b.t1.toInt ≤ t then .b else .a := by
  rw [BandSelector.move, hc, climb_b ho, apply_ite (BandSelector.descend b t 3), apply_ite (BandSelector.descend b t 3)]
  exact ite_congr rfl descend_climbed_d fun _ => ite_congr rfl descend_climbed_c fun _ => descend_b 2

theorem move_from_c (hc : b.current = .c) : BandSelector.move b t =
    if b.t3.toInt + b.hyst.toNat ≤ t then .d else if b.t2.toInt ≤ t then .c
      else if b.t1.toInt ≤ t then .b else .a := by
  rw [BandSelector.move, hc, climb_c, apply_ite (BandSelector.descend b t 3)]
  exact ite_congr rfl descend_climbed_d fun _ => descend_c 1

theorem move_from_d (hc : b.current = .d) : BandSelector.move b t =
    if b.t3.toInt ≤ t then .d else if b.t2.toInt ≤ t then .c else if b.t1.toInt ≤ t then .b else .a := by
  rw [BandSelector.move, hc, climb_d]
  exact descend_d 0

end

/-- Settles O30: TEMP by the order of the thresholds, and the row of R78's table for each band to start from. -/
theorem tempMovesTheBand : Obligations.TempMovesTheBand := by
  intro v s hup t16 t f b ordered h
  rw [exec_tempWrite v hup]
  refine ⟨fun hord => ?_, fun hord => ?_⟩
  · exact congrArg _ (takeTemp_unordered fun ho => hord ((ordered_iff b).1 ho))
  · have ho : BandSelector.ordered b = true := (ordered_iff b).2 hord
    exact ⟨_, congrArg _ (takeTemp_ordered ho), move_from_a ho, move_from_b ho, move_from_c, move_from_d⟩

end Sys2Proof.Qualification
end

section
/-! SUPPORT. The judgement of a compensated value in the modes FIXED, LOW_ONLY and HIGH_ONLY, each as one equation
of the qualifier (R72, R73). -/

namespace Sys2Proof.Qualification

open Sys2Proof Sys2Proof.Machine Sys2Proof.Safety Sys2Proof.MeasurementPlan

section
variable {s : State} {sn : Snapshot} {v : Int}

/-- What the modes that do not learn have in common: STALE for a generation that has changed is the only flag, and the
entry's learn record is left (R70, R72, R73). -/
def judgedOn (s : State) (sn : Snapshot) (o : VerdictCode) : Qualified :=
  judgedAs o (sn.generation != (s.entry sn.step.toNat).generation) (s.entry sn.step.toNat).learn

theorem judgedOn_stale (o : VerdictCode) :
    (judgedOn s sn o).stale = true ↔ sn.generation ≠ (s.entry sn.step.toNat).generation := bne_iff_ne

theorem qualify_fixed (hm : sn.host.limitMode = .fixed) :
    qualify s sn v = judgedOn s sn (judgeBoth v sn.host.lowLimit.toInt sn.host.highLimit.toInt) := by
  rw [qualify, hm]; rfl

theorem qualify_lowOnly (hm : sn.host.limitMode = .lowOnly) :
    qualify s sn v = judgedOn s sn (judgeLow v sn.host.lowLimit.toInt) := by rw [qualify, hm]; rfl

theorem qualify_highOnly (hm : sn.host.limitMode = .highOnly) :
    qualify s sn v = judgedOn s sn (judgeHigh v sn.host.highLimit.toInt) := by rw [qualify, hm]; rfl

end

/-! ### The outcomes of a judgement -/

section
variable {v low high : Int}

theorem judgeBoth_low (h : v < low) : judgeBoth v low high = .low := if_pos h

theorem judgeBoth_high (hl : ¬ v < low) (hh : high < v) : judgeBoth v low high = .high :=
  (if_neg hl).trans (if_pos hh)

/-- A value on a limit passes (R72). -/
theorem judgeBoth_pass_iff : judgeBoth v low high = .pass ↔ low ≤ v ∧ v ≤ high := by
  unfold judgeBoth
  split_ifs with hl hh
  · exact iff_of_false nofun (by omega)
  · exact iff_of_false nofun (by omega)
  · exact iff_of_true rfl (by omega)

/-- A one-sided mode never learns (R73). -/
theorem judgeLow_not_learning : judgeLow v low ≠ .learned ∧ judgeLow v low ≠ .learnReject := by
  unfold judgeLow
  split_ifs <;> decide

theorem judgeHigh_not_learning : judgeHigh v high ≠ .learned ∧ judgeHigh v high ≠ .learnReject := by
  unfold judgeHigh
  split_ifs <;> decide

end

/-! ### What the commit check and the chain read of a snapshot -/

/-- The commit check of FIXED and LEARN has the limits in order (R9). -/
theorem limits_ordered {h : HostFields} (hm : h.limitMode = .fixed ∨ h.limitMode = .learn)
    (hp : HostFields.passesCommit h = true) : h.lowLimit.toInt ≤ h.highLimit.toInt := by
  obtain ⟨-, -, -, -, horder⟩ := (passesCommit_iff h).1 hp
  exact horder hm

/-- In a one-sided mode the commit check reads neither limit (R9, R73). -/
theorem passesCommit_oneSided {h : HostFields} (hm : h.limitMode = .lowOnly ∨ h.limitMode = .highOnly)
    (low high : Word) :
    HostFields.passesCommit { h with lowLimit := low, highLimit := high } = HostFields.passesCommit h := by
  unfold HostFields.passesCommit
  rcases hm with hm | hm <;> simp only [hm]

/-- The chain after a verdict reads the snapshot's next step and policy, not its limit mode (R56, R73). -/
theorem chainTarget_limitMode {c : Channel} {sn : Snapshot} (mode : LimitMode) (hs : c.snapshot = some sn) :
    Channel.chainTarget { c with snapshot := some { sn with host := { sn.host with limitMode := mode } } } =
      Channel.chainTarget c := by
  simp only [Channel.chainTarget, hs]
  cases c.held <;> rfl

/-- Settles O36: each mode is its one comparison on the fields that the three share. -/
theorem fixedAndOneSidedJudgement : Obligations.FixedAndOneSidedJudgement := by
  refine ⟨fun s sn v hm => ?_, fun s sn v other =>
    ⟨fun hm => ?_, fun hm => ?_, fun hm => ?_, fun c mode hs => chainTarget_limitMode mode hs⟩⟩
  · intro q low high
    have hq : q = judgedOn s sn (judgeBoth v low high) := qualify_fixed hm
    rw [hq]
    refine ⟨judgeBoth_low, judgeBoth_high, fun hl hh => judgeBoth_pass_iff.2 ⟨hl, hh⟩, fun hp => ?_,
      judgedOn_stale _, rfl, rfl, rfl⟩
    have horder : low ≤ high := limits_ordered (.inl hm) hp
    exact ⟨horder, by omega, fun heq => judgeBoth_pass_iff.trans (by omega)⟩
  · rw [qualify_lowOnly hm]
    exact ⟨rfl, qualify_lowOnly hm, passesCommit_oneSided (.inl hm) _ other⟩
  · rw [qualify_highOnly hm]
    exact ⟨rfl, qualify_highOnly hm, passesCommit_oneSided (.inr hm) other _⟩
  · rcases hm with hm | hm
    · obtain ⟨hlearned, hreject⟩ := judgeLow_not_learning (v := v) (low := sn.host.lowLimit.toInt)
      rw [qualify_lowOnly hm]
      exact ⟨hlearned, hreject, judgedOn_stale _, rfl, rfl⟩
    · obtain ⟨hlearned, hreject⟩ := judgeHigh_not_learning (v := v) (high := sn.host.highLimit.toInt)
      rw [qualify_highOnly hm]
      exact ⟨hlearned, hreject, judgedOn_stale _, rfl, rfl⟩

end Sys2Proof.Qualification
end

section
/-! SUPPORT. BOARD_OPEN, BOARD_CLOSE and LEARN_CLEAR: the checks of each in their order, and what each does where they
pass (R85 to R87, R100). -/

namespace Sys2Proof.BoardLearning

open Sys2Proof Sys2Proof.Machine Sys2Proof.Safety Sys2Proof.ChannelEngines

/-! ### The checks of the board commands (R86, R87) -/

/-- The quiet condition: every channel IDLE and the hold queue empty. -/
theorem quiet_iff (s : State) : s.quiet = true ↔ (∀ ch, (s.ch ch).state = .idle) ∧ s.queue = [] := by
  rw [State.quiet, Bool.and_eq_true, allIdle_iff, List.isEmpty_iff]

section
variable {s : State} {n : Nat}

theorem boardOpenResult_of_badArg (hn : 65535 ≤ n) : s.boardOpenResult n = .badArg := if_pos hn

theorem boardOpenResult_of_open (hn : n < 65535) (h : s.boardOpen = true) : s.boardOpenResult n = .badState := by
  rw [State.boardOpenResult, if_neg (by omega), if_pos h]

/-- With a board number and no board open, only the quiet condition is left to check (R86). -/
theorem boardOpenResult_of_closed (hn : n < 65535) (h : s.boardOpen = false) :
    s.boardOpenResult n = if !s.quiet then .busy else .done := by
  rw [State.boardOpenResult, if_neg (by omega), h]
  rfl

theorem boardCloseResult_of_closed (h : s.boardOpen = false) : s.boardCloseResult = .badState := by
  rw [State.boardCloseResult, h]
  rfl

/-- With a board open, only the quiet condition is left to check (R87). -/
theorem boardCloseResult_of_open (h : s.boardOpen = true) :
    s.boardCloseResult = if !s.quiet then .busy else .done := by
  rw [State.boardCloseResult, h]
  rfl

end

theorem busy_of_not_quiet {s : State} (h : ¬ ((∀ ch, (s.ch ch).state = .idle) ∧ s.queue = [])) :
    (if !s.quiet then ResultCode.busy else .done) = .busy := by
  rw [← quiet_iff, Bool.not_eq_true] at h
  rw [h]
  rfl

theorem done_of_quiet {s : State} (h : (∀ ch, (s.ch ch).state = .idle) ∧ s.queue = []) :
    (if !s.quiet then ResultCode.busy else .done) = .done := by
  rw [(quiet_iff s).2 h]
  rfl

/-! ### What the board commands do (R86, R87) -/

section
variable {arg : BitVec 24} {s : State} {r : ResultCode} (hfree : s.resetPending = false)
include hfree

theorem devBoardOpen_refused (hr : s.boardOpenResult arg.toNat = r) (hne : r ≠ .done) :
    devBoardOpen arg s = { s with devResult := r } := by
  subst hr
  exact (deviceCommand_free hfree).trans (if_neg hne)

theorem devBoardOpen_done (hr : s.boardOpenResult arg.toNat = .done) :
    devBoardOpen arg s = { s with boardOpen := true, board := arg.setWidth 16, devResult := .done } :=
  (deviceCommand_free hfree).trans (if_pos hr)

theorem devBoardClose_refused (hr : s.boardCloseResult = r) (hne : r ≠ .done) :
    devBoardClose s = { s with devResult := r } := by
  subst hr
  exact (deviceCommand_free hfree).trans (if_neg hne)

theorem devBoardClose_done (hr : s.boardCloseResult = .done) :
    devBoardClose s = { s with boardOpen := false, board := 65535#16, devResult := .done } :=
  (deviceCommand_free hfree).trans (if_pos hr)

end

/-- Settles O26: forwarding the word leaves what the checks read, so each answer is that of the first that applies. -/
theorem boardCommandsCheckInOrder : Obligations.BoardCommandsCheckInOrder := by
  intro arg s hup hfree fo fc quiet
  have opens {r : ResultCode} (hr : fo.boardOpenResult arg.toNat = r) (hne : r ≠ .done) :
      exec (.boardOpen arg) s = .next { fo with devResult := r } :=
    (exec_boardOpen arg hup).trans (congrArg _ (devBoardOpen_refused hfree hr hne))
  have closes {r : ResultCode} (hr : fc.boardCloseResult = r) (hne : r ≠ .done) :
      exec (.boardClose arg) s = .next { fc with devResult := r } :=
    (exec_boardClose arg hup).trans (congrArg _ (devBoardClose_refused hfree hr hne))
  refine ⟨fun hn => opens (boardOpenResult_of_badArg hn) nofun,
    fun hn hopen => opens (boardOpenResult_of_open hn hopen) nofun,
    fun hn hclosed hbusy => opens ((boardOpenResult_of_closed hn hclosed).trans (busy_of_not_quiet hbusy)) nofun,
    fun hn hclosed hquiet => ?_,
    fun hclosed => closes (boardCloseResult_of_closed hclosed) nofun,
    fun hopen hbusy => closes ((boardCloseResult_of_open hopen).trans (busy_of_not_quiet hbusy)) nofun,
    fun hopen hquiet => ?_⟩
  · have hdone : fo.boardOpenResult arg.toNat = .done :=
      (boardOpenResult_of_closed hn hclosed).trans (done_of_quiet hquiet)
    exact (exec_boardOpen arg hup).trans (congrArg _ (devBoardOpen_done hfree hdone))
  · have hdone : fc.boardCloseResult = .done := (boardCloseResult_of_open hopen).trans (done_of_quiet hquiet)
    exact (exec_boardClose arg hup).trans (congrArg _ (devBoardClose_done hfree hdone))

/-! ### LEARN_CLEAR (R13, R100) -/

section
variable {arg : BitVec 24} {s : State} (hfree : s.resetPending = false)
include hfree

theorem devLearnClear_one (h : arg.toNat ≤ 8190) :
    devLearnClear arg s = setDevResult .done (s.setEntry arg.toNat (Entry.learnCleared (s.entry arg.toNat))) :=
  (deviceCommand_free hfree).trans (if_pos h)

theorem devLearnClear_all : devLearnClear 0xFFFFFF#24 s =
    setDevResult .done { s with table := Table.mapAll Entry.learnCleared s.table } := deviceCommand_free hfree

theorem devLearnClear_badStep (h : 8191 ≤ arg.toNat) (hne : arg ≠ 0xFFFFFF#24) :
    devLearnClear arg s = setDevResult .badStep s :=
  (deviceCommand_free hfree).trans ((if_neg (by omega)).trans (if_neg hne))

end

/-- Clearing every record of a canonical table clears the record of every step, listed or not. -/
theorem entry_of_all_cleared {s : State} (h : Table.wf s.table = true) (n : Nat) :
    State.entry { s with table := Table.mapAll Entry.learnCleared s.table } n = Entry.learnCleared (s.entry n) :=
  Table.get_mapAll Entry.learnCleared rfl h n

/-- Settles O27: the table is read back after one entry is set, or after all are changed in its canonical form. -/
theorem learnClearClearsRecords : Obligations.LearnClearClearsRecords := by
  intro arg s hup hfree hwf f cleared
  rw [exec_learnClear arg hup]
  refine ⟨fun hone => ⟨_, congrArg _ (devLearnClear_one hfree hone), ?_, fun m hm => ?_, rfl⟩, fun hall => ?_,
    fun hn hne => congrArg _ (devLearnClear_badStep hfree hn hne)⟩
  · exact setEntry_entry_same f _ _
  · exact setEntry_entry_other f _ m _ hm.symm
  · subst hall
    exact ⟨_, congrArg _ (devLearnClear_all hfree), entry_of_all_cleared (s := f) hwf, rfl⟩

end Sys2Proof.BoardLearning
end

section
/-! SUPPORT. Learning and derivation: the stages of a LEARN-mode qualification, each as one equation, and the limits
that derivation takes from a learn record (R14, R70, R90 to R97). -/

namespace Sys2Proof.BoardLearning

open Sys2Proof Sys2Proof.Machine

/-! ### Stage 1: the stale check and lazy derivation (R70, R91) -/

section
variable {s : State} {sn : Snapshot} {v : Int}

theorem qualify_learn_stale (hm : sn.host.limitMode = .learn)
    (hgen : sn.generation ≠ (s.entry sn.step.toNat).generation) :
    qualify s sn v = judgedAs .learnReject true (s.entry sn.step.toNat).learn := by
  rw [qualify, hm]
  exact if_pos (bne_iff_ne.2 hgen)

theorem qualify_learn_fresh (hm : sn.host.limitMode = .learn)
    (hgen : sn.generation = (s.entry sn.step.toNat).generation) : qualify s sn v =
      qualifyLearn (s.entry sn.step.toNat).learn sn.host s.boardOpen s.board s.learnTarget.toNat v := by
  rw [qualify, hm]
  exact if_neg (by simp [hgen])

end

/-- Lazy derivation acts on a record that is not derived and whose count has reached K (R91). -/
theorem lazy_eq (r : LearnRecord) (k : Nat) (tolerance learnFloor : Word) :
    LearnRecord.lazy r k tolerance learnFloor =
      if r.derived = false ∧ k ≤ r.count then LearnRecord.derive r tolerance learnFloor else r :=
  if_congr (by simp) rfl rfl

/-! ### Stages 2 to 6, on the record that stage 1 left (R92 to R96) -/

section
variable {r : LearnRecord} {h : HostFields} {boardOpen : Bool} {board : BitVec 16} {k : Nat} {v : Int}

/-- A derived entry is judged against its derived limits (R92). -/
theorem qualifyStages_derived (hd : r.derived = true) : qualifyStages r h boardOpen board k v =
    judgedAs (judgeBoth v r.derivedLow.toInt r.derivedHigh.toInt) false r := if_pos hd

/-- Without an open board nothing is learned (R93). -/
theorem qualifyStages_noBoard (hd : r.derived = false) : qualifyStages r h false board k v =
    { outcome := .learnReject, stale := false, repeated := false, noBoard := true, learn := r } := by
  rw [qualifyStages, hd]
  rfl

/-- With a board open the plausibility window is checked, then the repeat (R94 to R96). -/
theorem qualifyStages_open (hd : r.derived = false) : qualifyStages r h true board k v =
    if v < h.lowLimit.toInt ∨ h.highLimit.toInt < v then judgedAs .learnReject false r
    else if 1 ≤ r.count ∧ r.lastBoard = board then
      { outcome := .learned, stale := false, repeated := true, noBoard := false, learn := r }
    else judgedAs .learned false (LearnRecord.learn r v board k h.tolerance h.learnFloor) := by
  rw [qualifyStages, hd]
  rfl

theorem qualifyStages_implausible (hd : r.derived = false)
    (hout : ¬ (h.lowLimit.toInt ≤ v ∧ v ≤ h.highLimit.toInt)) :
    qualifyStages r h true board k v = judgedAs .learnReject false r :=
  (qualifyStages_open hd).trans (if_pos (by omega))

theorem qualifyStages_plausible (hd : r.derived = false) (hin : h.lowLimit.toInt ≤ v ∧ v ≤ h.highLimit.toInt) :
    qualifyStages r h true board k v = if 1 ≤ r.count ∧ r.lastBoard = board then
        { outcome := .learned, stale := false, repeated := true, noBoard := false, learn := r }
      else judgedAs .learned false (LearnRecord.learn r v board k h.tolerance h.learnFloor) :=
  (qualifyStages_open hd).trans (if_neg (by omega))

/-- No stage past the stale check reports STALE (R70). -/
theorem qualifyStages_not_stale : (qualifyStages r h boardOpen board k v).stale = false := by
  unfold qualifyStages
  split_ifs <;> rfl

end

/-! ### Derivation (R14, R97) -/

/-- A saturated value fits a word, so it is kept as the signed value that it is. -/
theorem toInt_ofInt_saturateSigned32 (x : Int) :
    (BitVec.ofInt 32 (saturateSigned32 x)).toInt = max (-2147483648) (min x 2147483647) :=
  BitVec.toInt_ofInt_eq_self (by decide) (Int.le_max_left _ _) (by unfold saturateSigned32; omega)

/-- Saturation keeps the order. -/
theorem saturateSigned32_mono {x y : Int} (h : x ≤ y) : saturateSigned32 x ≤ saturateSigned32 y :=
  max_le_max_left _ (min_le_min_right _ h)

theorem mean_of_learned {r : LearnRecord} (h : 1 ≤ r.count) :
    LearnRecord.mean r = (r.sum.toInt + (r.count / 2 : Nat)) / (r.count : Int) := if_neg (by omega)

section
variable (r : LearnRecord) (tolerance learnFloor : Word)

/-- The margin is the larger of the relative margin, the tolerance taken as at most 1,000,000, and the floor
(R97, R184). -/
theorem margin_toInt : (LearnRecord.margin r tolerance learnFloor : Int) =
    max (((LearnRecord.mean r).natAbs * min tolerance.toNat 1000000 / 1000000 : Nat) : Int) learnFloor.toNat :=
  Nat.cast_max _ _

theorem derive_low_toInt : (LearnRecord.derive r tolerance learnFloor).derivedLow.toInt =
    max (-2147483648) (min (r.least.toInt - LearnRecord.margin r tolerance learnFloor) 2147483647) :=
  toInt_ofInt_saturateSigned32 _

theorem derive_high_toInt : (LearnRecord.derive r tolerance learnFloor).derivedHigh.toInt =
    max (-2147483648) (min (r.greatest.toInt + LearnRecord.margin r tolerance learnFloor) 2147483647) :=
  toInt_ofInt_saturateSigned32 _

/-- The margin is no less than 0, so limits taken from values in order are in order. -/
theorem derive_limits_ordered (h : r.least.toInt ≤ r.greatest.toInt) :
    (LearnRecord.derive r tolerance learnFloor).derivedLow.toInt ≤
      (LearnRecord.derive r tolerance learnFloor).derivedHigh.toInt := by
  rw [derive_low_toInt, derive_high_toInt]
  exact saturateSigned32_mono (by omega)

end

/-- Settles O37: each stage is its equation on the record that lazy derivation left, and each limit is saturated after
the margin is taken off or added. -/
theorem learningAndDerivation : Obligations.LearningAndDerivation := by
  refine ⟨fun s sn v hm => ?_, fun r tolerance learnFloor hcount => ?_⟩
  · intro e k r inside repeats q
    refine ⟨qualify_learn_stale hm, fun hgen => ?_⟩
    have hq : q = qualifyStages r sn.host s.boardOpen s.board k v :=
      (qualify_learn_fresh hm hgen).trans (by rw [qualifyLearn, lazy_eq])
    rw [hq]
    refine ⟨qualifyStages_not_stale, fun hd => ?_, fun hd hclosed => ?_, fun hd hopen hout => ?_,
      fun hd hopen hin hrep => ?_, fun hd hopen hin hnew => ?_⟩
    · rw [qualifyStages_derived hd]
      exact ⟨rfl, rfl, rfl, rfl⟩
    · rw [hclosed, qualifyStages_noBoard hd]
      exact ⟨rfl, rfl, rfl, rfl⟩
    · rw [hopen, qualifyStages_implausible hd hout]
      exact ⟨rfl, rfl, rfl, rfl⟩
    · rw [hopen, qualifyStages_plausible hd hin, if_pos hrep]
      exact ⟨rfl, rfl, rfl, rfl⟩
    · rw [hopen, qualifyStages_plausible hd hin, if_neg hnew]
      exact ⟨rfl, rfl, rfl, rfl⟩
  · intro mean margin d
    have hmean : LearnRecord.mean r = mean := mean_of_learned hcount
    have hmargin : (LearnRecord.margin r tolerance learnFloor : Int) = margin :=
      (margin_toInt r tolerance learnFloor).trans (by rw [hmean])
    rw [← hmargin]
    exact ⟨hmean, derive_low_toInt r _ _, derive_high_toInt r _ _, rfl, derive_limits_ordered r _ _⟩

end Sys2Proof.BoardLearning
end

section
/-! SUPPORT. The ring, its writer and the hold queue: what every operation of the part keeps of them, and the
invariant of the ring over a step (R104, R107 to R122, R171, R173). -/

namespace Sys2Proof.VerdictRing

open Sys2Proof Sys2Proof.Machine Sys2Proof.Safety

/-! ### The fill and the ring size -/

/-- The two conditions of an enable (R109). -/
theorem enableOk_iff (w : Writer) : Writer.enableOk w = true ↔
    4 ≤ w.sizeCode.toNat ∧ w.sizeCode.toNat ≤ 12 ∧ w.ringBase.toNat % (2 ^ w.sizeCode.toNat * 16) = 0 := by
  rw [Writer.enableOk, Bool.and_eq_true, Bool.and_eq_true, decide_eq_true_eq, decide_eq_true_eq, decide_eq_true_eq,
    and_assoc]
  rfl

/-- A ring that may be enabled has at most 4096 slots (R109). -/
theorem slots_le {w : Writer} (h : Writer.enableOk w = true) : Writer.slots w ≤ 4096 :=
  Nat.pow_le_pow_right (by decide) ((enableOk_iff w).1 h).2.1

/-- A published record adds one to a fill that is below a legal ring's size (R111, R115). -/
theorem fill_publish {w : Writer} (hok : Writer.enableOk w = true) (hroom : Writer.fill w < Writer.slots w) :
    (w.producer + 1 - w.consumer).toNat = Writer.fill w + 1 := by
  have hslots := slots_le hok
  rw [fill_eq] at hroom ⊢
  unfold fillOf at hroom ⊢
  have hconsumer := w.consumer.isLt
  have hone : (1 : BitVec 16).toNat = 1 := rfl
  rw [BitVec.toNat_sub, BitVec.toNat_add, hone]
  omega

/-- A consumer that passes `d` records of the fill leaves the rest (R118). -/
theorem fillOf_consumed {w : Writer} {new : BitVec 16}
    (h : (new.toNat + 65536 - w.consumer.toNat) % 65536 ≤ fillOf w) :
    fillOf { w with consumer := new } = fillOf w - (new.toNat + 65536 - w.consumer.toNat) % 65536 := by
  unfold fillOf at h ⊢
  have hproducer := w.producer.isLt
  have hconsumer := w.consumer.isLt
  have hnew := new.isLt
  dsimp only
  omega

/-! ### The invariant with its queue -/

/-- A channel as the hold queue has it: in HOLDING with its verdict (R104). -/
def Queued (c : Channel) : Prop := c.state = .holding ∧ c.held.isSome = true

/-- The ring, its writer and the hold queue where the next write may be due and has not begun. -/
structure RingBut (s : State) : Prop where
  nodup    : s.queue.Nodup
  queued   : ∀ ch ∈ s.queue, Queued (s.ch ch)
  fill     : Writer.fill s.writer ≤ Writer.slots s.writer
  enabled  : s.writer.state ≠ .off → Writer.enableOk s.writer = true
  inFlight : s.writer.state = .writing ↔ s.writer.flight.isSome = true
  room     : s.writer.state = .writing → Writer.fill s.writer < Writer.slots s.writer
  head     : s.writer.state = .writing → s.queue ≠ []
  pending  : s.resetPending = true → s.writer.state = .writing

/-- The ring, its writer and the hold queue after an event: no write that is due waits (R112). -/
structure RingOk (s : State) : Prop extends RingBut s where
  stalled : s.writer.state = .ready → s.queue = [] ∨ Writer.fill s.writer = Writer.slots s.writer

/-- The ring's invariant is kept together with what the hold queue's says of the queued channels. -/
theorem RingOk.of_inv {s : State} (hold : HoldInv s) (h : RingInv s) : RingOk s where
  nodup := hold.nodup
  queued ch hq := by
    have hst := (hold.queued ch).1 hq
    exact ⟨hst, (hold.held ch).2 hst⟩
  fill := h.fill
  enabled := h.enabled
  inFlight := h.inFlight
  room := h.room
  head := h.head
  pending := h.pending
  stalled := h.stalled

theorem RingOk.ringInv {s : State} (h : RingOk s) : RingInv s where
  fill := h.fill
  enabled := h.enabled
  inFlight := h.inFlight
  room := h.room
  head := h.head
  stalled := h.stalled
  pending := h.pending

/-- Nothing changed of what the invariant reads: the writer's state and indices, its legality, whether it has a write in
flight, the queue and the channels. -/
structure SameRing (s t : State) : Prop where
  queue   : t.queue = s.queue
  chans   : t.chans = s.chans
  pending : t.resetPending = s.resetPending
  state   : t.writer.state = s.writer.state
  base    : t.writer.ringBase = s.writer.ringBase
  size    : t.writer.sizeCode = s.writer.sizeCode
  fill    : Writer.fill t.writer = Writer.fill s.writer
  flight  : t.writer.flight.isSome = s.writer.flight.isSome

theorem SameRing.slots {s t : State} (e : SameRing s t) : Writer.slots t.writer = Writer.slots s.writer :=
  congrArg ringSlots e.size

theorem SameRing.enableOk {s t : State} (e : SameRing s t) :
    Writer.enableOk t.writer = Writer.enableOk s.writer := by
  rw [Writer.enableOk, Writer.enableOk, e.slots, e.size, e.base]

theorem RingBut.same {s t : State} (h : RingBut s) (e : SameRing s t) : RingBut t where
  nodup := by rw [e.queue]; exact h.nodup
  queued ch hq := by
    rw [e.queue] at hq
    rw [ch_congr e.chans]
    exact h.queued ch hq
  fill := by rw [e.fill, e.slots]; exact h.fill
  enabled := by rw [e.state, e.enableOk]; exact h.enabled
  inFlight := by rw [e.state, e.flight]; exact h.inFlight
  room := by rw [e.state, e.fill, e.slots]; exact h.room
  head := by rw [e.state, e.queue]; exact h.head
  pending := by rw [e.pending, e.state]; exact h.pending

theorem RingOk.same {s t : State} (h : RingOk s) (e : SameRing s t) : RingOk t where
  toRingBut := h.toRingBut.same e
  stalled := by rw [e.state, e.queue, e.fill, e.slots]; exact h.stalled

/-- An operation that leaves the ring, its writer and the queue alone by definition. -/
theorem RingOk.rest {s t : State} (h : RingOk s) (hq : t.queue = s.queue := by rfl) (hc : t.chans = s.chans := by rfl)
    (hp : t.resetPending = s.resetPending := by rfl) (hw : t.writer = s.writer := by rfl) : RingOk t :=
  h.same ⟨hq, hc, hp, by rw [hw], by rw [hw], by rw [hw], by rw [hw], by rw [hw]⟩

/-! ### The start of a write (R112) -/

/-- The start of a write where one is due leaves none due. -/
theorem RingBut.beginWrite {s : State} (h : RingBut s) : RingOk (beginWrite s) := by
  by_cases hdue : s.writer.state = .ready ∧ s.queue ≠ [] ∧ fillOf s.writer < 2 ^ s.writer.sizeCode.toNat
  · obtain ⟨hready, hne, hroom⟩ := hdue
    obtain ⟨head, rest, hq⟩ := List.exists_cons_of_ne_nil hne
    obtain ⟨v, hv⟩ := Option.isSome_iff_exists.1 (h.queued head (by rw [hq]; exact List.mem_cons_self)).2
    rw [beginWrite_starts hq hv hready hroom]
    exact { nodup := h.nodup, queued := h.queued, fill := h.fill,
            enabled := fun _ => h.enabled (by rw [hready]; exact nofun),
            inFlight := ⟨fun _ => rfl, fun _ => rfl⟩, room := fun _ => by rw [← fill_eq] at hroom; exact hroom,
            head := fun _ => hne, pending := fun _ => rfl, stalled := nofun }
  · rw [beginWrite_waits (by
      rw [not_and_or, not_and_or, not_not, Nat.not_lt] at hdue
      exact hdue)]
    refine ⟨h, fun hready => ?_⟩
    by_cases hq : s.queue = []
    · exact .inl hq
    · have hfull : ¬ fillOf s.writer < 2 ^ s.writer.sizeCode.toNat := fun hroom => hdue ⟨hready, hq, hroom⟩
      rw [← fill_eq] at hfull
      exact .inr (Nat.le_antisymm h.fill (Nat.le_of_not_lt hfull))

/-! ### Channels that are not queued, and the end of a run -/

theorem RingBut.setCh {s : State} {ch : ChanNo} {c : Channel} (h : RingBut s) (hc : ch ∈ s.queue → Queued c) :
    RingBut (s.setCh ch c) where
  nodup := h.nodup
  queued j hq := by
    rw [setCh_ch]
    split
    · next e => exact hc (e ▸ hq)
    · exact h.queued j hq
  fill := h.fill
  enabled := h.enabled
  inFlight := h.inFlight
  room := h.room
  head := h.head
  pending := h.pending

theorem RingOk.setCh {s : State} {ch : ChanNo} {c : Channel} (h : RingOk s) (hc : ch ∈ s.queue → Queued c) :
    RingOk (s.setCh ch c) where
  toRingBut := h.toRingBut.setCh hc
  stalled := h.stalled

/-- A channel with its run in flight is not queued. -/
theorem RingBut.not_queued_of_inFlight {s : State} {ch : ChanNo} (h : RingBut s)
    (hf : Channel.inFlight (s.ch ch) = true) : ch ∉ s.queue := fun hq => by
  rw [Channel.inFlight, (h.queued ch hq).1] at hf
  cases hf

/-- A channel in IDLE is not queued. -/
theorem RingBut.not_queued_of_idle {s : State} {ch : ChanNo} (h : RingBut s) (hi : (s.ch ch).state = .idle) :
    ch ∉ s.queue := fun hq => by
  rw [(h.queued ch hq).1] at hi
  cases hi

/-- A channel that holds a verdict joins the queue, and its write begins where one is due (R104, R112). -/
theorem RingBut.join {s : State} {ch : ChanNo} (h : RingBut s) (hq : ch ∉ s.queue) (hc : Queued (s.ch ch)) :
    RingOk (joinQueue ch s) := by
  have hjoined : RingBut { s with queue := s.queue ++ [ch] } :=
    { nodup := List.nodup_append.2 ⟨h.nodup, List.nodup_singleton ch, fun a ha b hb e => by
        rw [List.mem_singleton.1 hb] at e
        exact hq (e ▸ ha)⟩
      queued := fun j hj => by
        rcases List.mem_append.1 hj with hj | hj
        · exact h.queued j hj
        · rw [List.mem_singleton.1 hj]
          exact hc
      fill := h.fill, enabled := h.enabled, inFlight := h.inFlight, room := h.room
      head := fun _ => List.append_ne_nil_of_right_ne_nil _ nofun
      pending := h.pending }
  exact hjoined.beginWrite

/-- The end of a run queues its channel with its verdict (R53). -/
theorem RingOk.endRun {s : State} {ch : ChanNo} (e : Ending) (h : RingOk s) (hq : ch ∉ s.queue) :
    RingOk (endRun ch e s) := by
  unfold Machine.endRun
  split
  · exact h
  · next sn _ =>
    have hentry : RingOk (s.setEntry sn.step.toNat (Entry.endRun (s.entry sn.step.toNat))) := h.rest
    refine (hentry.setCh fun hm => absurd hm hq).toRingBut.join hq ?_
    rw [setCh_ch_same]
    exact ⟨rfl, rfl⟩

/-- The start of a run on a channel that is not queued (R42). -/
theorem RingBut.startRun {s : State} {ch : ChanNo} (n : StepNo) (h : RingBut s) (hq : ch ∉ s.queue) :
    RingBut (startRun ch n s) := by
  have hentry : RingBut (s.setEntry n.toNat (Entry.beginRun (s.entry n.toNat))) :=
    h.same ⟨rfl, rfl, rfl, rfl, rfl, rfl, rfl, rfl⟩
  exact hentry.setCh fun hm => absurd hm hq

/-- The ways a run goes on, ends and starts keep the ring and its queue. -/
theorem ringOk_runKept : RunKept RingOk where
  tweak ch c s hf _ _ h := h.setCh fun hq => absurd hq (h.not_queued_of_inFlight hf)
  aside ch c s hst _ _ hh _ _ _ _ _ h := h.setCh fun hq => by
    obtain ⟨h1, h2⟩ := h.queued ch hq
    exact ⟨hst.trans h1, by rw [hh]; exact h2⟩
  ended ch c e s hf _ h := by
    have hq := h.not_queued_of_inFlight hf
    exact (h.setCh fun hm => absurd hm hq).endRun e hq
  judged ch c e sn v s hf _ _ h := by
    have hq := h.not_queued_of_inFlight hf
    have hset : RingOk (s.setCh ch c) := h.setCh fun hm => absurd hm hq
    have hjudged : RingOk ((s.setCh ch c).setEntry sn.step.toNat
      { (s.setCh ch c).entry sn.step.toNat with learn := (qualify (s.setCh ch c) sn v).learn }) := hset.rest
    exact hjudged.endRun e hq
  started ch n s hi _ _ _ h :=
    { toRingBut := h.toRingBut.startRun n (h.not_queued_of_idle hi), stalled := h.stalled }
  tick _ h := h.rest
  tap _ _ _ h := h.rest

/-! ### The release of the head and publication (R56, R115) -/

/-- The release of a channel that has left the queue. -/
theorem RingBut.release {s : State} {ch : ChanNo} (h : RingBut s) (hq : ch ∉ s.queue) : RingBut (release ch s) := by
  have hset (c : Channel) : RingBut (s.setCh ch c) := h.setCh fun hm => absurd hm hq
  unfold Machine.release
  split
  · unfold releaseIdle
    dsimp only
    split
    · exact (hset _).same ⟨rfl, rfl, rfl, rfl, rfl, rfl, rfl, rfl⟩
    · exact hset _
  · next t _ =>
    split
    · have hstarted := h.startRun t hq
      unfold chainStart
      dsimp only
      split
      · exact hstarted.setCh fun hm => absurd hm hq
      · exact hstarted
    · refine ((hset _).join hq ?_).toRingBut
      rw [setCh_ch_same]
      exact ⟨rfl, rfl⟩

/-- A publication leaves the ring with one record more, and the next write begun where one is due (R115). -/
theorem RingOk.publish {s : State} (h : RingOk s) (hw : s.writer.state = .writing) (hp : s.resetPending = false) :
    RingOk (publish s) := by
  unfold Machine.publish
  split
  · exact h
  · next head rest hq =>
    have hnd := h.nodup
    rw [hq, List.nodup_cons] at hnd
    have hok := h.enabled (by rw [hw]; exact nofun)
    have hroom := h.room hw
    have hleft : RingBut { s with
        queue := rest,
        writer := { s.writer with producer := s.writer.producer + 1, state := .ready, flight := none } } :=
      { nodup := hnd.2
        queued := fun ch hm => h.queued ch (by rw [hq]; exact List.mem_cons_of_mem _ hm)
        fill := (fill_publish hok hroom).trans_le hroom
        enabled := fun _ => hok
        inFlight := ⟨nofun, nofun⟩, room := nofun, head := nofun
        pending := fun hr => Bool.noConfusion (hp.symm.trans hr) }
    exact (hleft.release hnd.1).beginWrite

/-! ### The writer's own operations -/

/-- A configuration of a writer that is OFF, with no more in the ring than the new size holds (R108). -/
theorem RingOk.ringConfig {f : Writer → Writer} {s : State} (h : RingOk s)
    (hst : ∀ w, (f w).state = w.state) (hfl : ∀ w, (f w).flight = w.flight)
    (hfill : Writer.fill (f s.writer) ≤ Writer.slots (f s.writer)) : RingOk (ringConfig f s) := by
  unfold Machine.ringConfig
  split
  · next hoff =>
    have hstill : (f s.writer).state = .off := (hst _).trans hoff
    exact
      { nodup := h.nodup, queued := h.queued, fill := hfill
        enabled := fun hne => absurd hstill hne
        inFlight := by
          dsimp only
          rw [hst, hfl]
          exact h.inFlight
        room := fun hw => by cases hstill.symm.trans hw
        head := fun hw => by cases hstill.symm.trans hw
        pending := fun hr => by cases hoff.symm.trans (h.pending hr)
        stalled := fun hw => by cases hstill.symm.trans hw }
  · exact h.rest

/-- An empty ring is within any size (R108). -/
theorem fill_le_of_empty {w : Writer} (hp : w.producer = 0) (hc : w.consumer = 0) (n : Nat) : Writer.fill w ≤ n := by
  rw [Writer.fill, hp, hc]
  exact Nat.zero_le n

/-- RING_CTRL with the enable field 1 (R109). -/
theorem RingOk.ringEnable {s : State} (h : RingOk s) : RingOk (ringEnable s) := by
  unfold Machine.ringEnable
  split
  · next hoff =>
    split
    · next hok =>
      have hready : RingBut { s with writer := { s.writer with state := .ready } } :=
        { nodup := h.nodup, queued := h.queued, fill := h.fill, enabled := fun _ => hok
          inFlight := ⟨nofun, fun hf => by cases hoff.symm.trans (h.inFlight.2 hf)⟩
          room := nofun, head := nofun
          pending := fun hr => by cases hoff.symm.trans (h.pending hr) }
      exact hready.beginWrite
    · exact h.rest
  · exact h

/-- RING_CTRL with the enable field 0 (R110). -/
theorem RingOk.ringDisable {s : State} (h : RingOk s) : RingOk (ringDisable s) := by
  unfold Machine.ringDisable
  split
  · exact h
  · next hready =>
    exact
      { nodup := h.nodup, queued := h.queued, fill := h.fill, enabled := fun hne => absurd rfl hne
        inFlight := ⟨nofun, fun hf => by cases hready.symm.trans (h.inFlight.2 hf)⟩
        room := nofun, head := nofun
        pending := fun hr => by cases hready.symm.trans (h.pending hr)
        stalled := nofun }
  · exact h.rest
  · exact h.rest

theorem RingOk.acceptIf {f : State → State} {s : State} (c : Bool) (h : RingOk s) (hf : RingOk (f s)) :
    RingOk (acceptIf c f s) := by
  unfold Machine.acceptIf
  split
  · exact hf
  · exact h.rest

/-- Only the words of the ring reach the writer (10.5). -/
theorem RingOk.takeConfigWord {s : State} (h : RingOk s) (w : ConfigWord) (v : Word) :
    RingOk (takeConfigWord w v s) := by
  unfold Machine.takeConfigWord
  cases w with
  | ringBase => exact h.ringConfig (fun _ => rfl) (fun _ => rfl) (fill_le_of_empty rfl rfl _)
  | ringSize => exact h.ringConfig (fun _ => rfl) (fun _ => rfl) (fill_le_of_empty rfl rfl _)
  | ringProdAddr => exact h.ringConfig (fun _ => rfl) (fun _ => rfl) h.fill
  | ringCtrl =>
    unfold takeRingCtrl
    dsimp only
    split
    · exact h.ringEnable
    · exact h.ringDisable
  | ringLevel => exact h.same ⟨rfl, rfl, rfl, rfl, rfl, rfl, rfl, rfl⟩
  | timebaseDiv => exact h.acceptIf _ h.rest
  | learnTarget => exact h.acceptIf _ h.rest
  | rangeShift r => exact h.acceptIf _ h.rest
  | sampleBase ch => exact h.acceptIf _ h.rest
  | sampleLen ch => exact h.acceptIf _ h.rest
  | bandT i => fin_cases i <;> exact h.rest
  | _ => exact h.rest

/-- The distance of two indices as the statements count it (R118). -/
theorem index_sub_toNat (a b : BitVec 16) : (a - b).toNat = (a.toNat + 65536 - b.toNat) % 65536 := by
  have hb := b.isLt
  rw [BitVec.toNat_sub]
  omega

/-- CONSUMER leaves no more in the ring than there was (R118). -/
theorem RingOk.takeConsumer {s : State} (h : RingOk s) (v : Word) : RingOk (takeConsumer v s) := by
  unfold Machine.takeConsumer
  dsimp only
  split
  · next hd =>
    rw [index_sub_toNat, fill_eq] at hd
    have hless : Writer.fill { s.writer with consumer := v.extractLsb' 0 16 } ≤ Writer.fill s.writer := by
      rw [fill_eq, fill_eq, fillOf_consumed hd]
      exact Nat.sub_le _ _
    have hmoved : RingBut { s with writer := { s.writer with consumer := v.extractLsb' 0 16 } } :=
      { nodup := h.nodup, queued := h.queued, fill := hless.trans h.fill, enabled := h.enabled
        inFlight := h.inFlight, room := fun hw => hless.trans_lt (h.room hw), head := h.head, pending := h.pending }
    exact hmoved.beginWrite
  · exact h.rest

/-- The completion of a plan reset leaves an empty ring, an empty queue and a writer without a write (R122, R173). -/
theorem RingOk.completed {s : State} (h : RingOk s) : RingOk (completePlanReset s) := by
  have hnot : (Writer.planReset s.writer).state ≠ .writing := by
    unfold Writer.planReset
    dsimp only
    split <;> exact nofun
  exact
    { nodup := List.nodup_nil, queued := nofun, fill := fill_le_of_empty rfl rfl _
      enabled := fun hne => h.enabled fun hoff => hne (if_pos hoff)
      inFlight := ⟨fun hw => absurd hw hnot, nofun⟩
      room := fun hw => absurd hw hnot, head := fun hw => absurd hw hnot
      pending := nofun, stalled := fun _ => .inl rfl }

/-- A device command, by its code (R169): only PLAN_RESET reaches the ring. -/
theorem RingOk.takeDevCmd {s : State} (h : RingOk s) (v : Word) : RingOk (takeDevCmd v s) := by
  have hcommand {f : State → State} (hf : RingOk (f s)) : RingOk (deviceCommand f s) := by
    unfold deviceCommand
    split
    · exact h.rest
    · exact hf
  unfold Machine.takeDevCmd
  split
  · refine hcommand ?_
    split
    · next hw =>
      exact
        { nodup := h.nodup, queued := h.queued, fill := h.fill, enabled := h.enabled, inFlight := h.inFlight
          room := h.room, head := h.head, pending := fun _ => hw, stalled := h.stalled }
    · exact h.completed
  · refine hcommand ?_
    dsimp only
    split <;> exact h.rest
  · refine hcommand ?_
    dsimp only
    split <;> exact h.rest
  · refine hcommand ?_
    split
    · exact h.rest
    · split <;> exact h.rest
  · exact hcommand h.rest
  · exact hcommand h.rest

/-- An error response leaves an enabled writer in FAULT without a write (R116). -/
theorem RingOk.writerFault {s : State} (k : WriteKind) (e : ErrResp) (h : RingOk s)
    (hw : s.writer.state = .writing) (hp : s.resetPending = false) : RingOk (writerFault k e s) :=
  { nodup := h.nodup, queued := h.queued, fill := h.fill
    enabled := fun _ => h.enabled (by rw [hw]; exact nofun)
    inFlight := ⟨nofun, nofun⟩, room := nofun, head := nofun
    pending := fun hr => Bool.noConfusion (hp.symm.trans hr), stalled := nofun }

/-- The writer's data go out in its write in flight (R160). -/
theorem sameRing_sendWriterData (s : State) : SameRing s (sendWriterData s) := by
  unfold sendWriterData
  split
  · next hf =>
    split
    · exact ⟨rfl, rfl, rfl, rfl, rfl, rfl, rfl, by rw [hf]; rfl⟩
    all_goals exact ⟨rfl, rfl, rfl, rfl, rfl, rfl, rfl, rfl⟩
  · exact ⟨rfl, rfl, rfl, rfl, rfl, rfl, rfl, rfl⟩

/-- A change of the write in flight, where there is one. -/
theorem RingOk.setFlight {s t : State} {o : Option Flight} (h : RingOk s) (ho : o.isSome = s.writer.flight.isSome)
    (hq : t.queue = s.queue := by rfl) (hc : t.chans = s.chans := by rfl)
    (hp : t.resetPending = s.resetPending := by rfl) (hw : t.writer = { s.writer with flight := o } := by rfl) :
    RingOk t :=
  h.same ⟨hq, hc, hp, by rw [hw], by rw [hw], by rw [hw], by rw [hw]; rfl, by rw [hw]; exact ho⟩

/-! ### Every step -/

/-- A pair arrives: trips end runs, then its charge is metered into the runs left (R131, R133, R135). -/
theorem RingOk.takeCurrent {s : State} (h : RingOk s) (src : SrcNo) (v i : Word) : RingOk (takeCurrent src v i s) := by
  unfold Machine.takeCurrent pairArrives
  refine ringOk_runKept.meterPair src i _ ?_
  unfold tripCheck
  dsimp only
  split
  · exact ringOk_runKept.endBoundRuns src _ h.rest
  · exact h.rest

/-- Every operation of the part keeps the ring and its queue. -/
theorem ringOk_kept : Kept RingOk where
  pending _ _ h := h.rest
  reset _ _ := (RingOk.of_inv MeasurementPlan.queueInv_reset.hold MeasurementPlan.ringInv_reset).rest
  released _ _ h := h.rest
  counted _ h _ := h.rest
  increment _ h := h.rest
  expiry := ringOk_runKept.expiry
  emit _ _ h := h.rest
  misuse _ h := h.rest
  edit _ _ _ _ _ _ h := h.rest
  commit _ _ _ _ h := by
    unfold commitEntry
    dsimp only
    split <;> exact h.rest
  config w v _ h := h.takeConfigWord w v
  channel := ringOk_runKept.channel
  device v _ h := h.takeDevCmd v
  consumer v _ h := h.takeConsumer v
  temp _ _ h := by
    unfold takeTemp
    dsimp only
    split <;> exact h.rest
  inspect _ _ h := h.rest
  sample ch w s _ h := ringOk_runKept.sample ch w s h
  stray ch a s _ _ h := ringOk_runKept.stray ch a s h
  voltage _ _ _ _ h := h.rest
  current src v i _ _ _ h := h.takeCurrent src v i
  monStray _ _ _ _ _ h := h.rest
  charge := ringOk_runKept.meterRun
  liveRead _ _ _ h := by
    unfold liveReadArrives
    dsimp only
    split <;> exact h.rest
  heldRead _ _ _ h := h.rest
  forwarded _ _ _ h := h.rest
  readAddr _ h := by
    unfold takeReadAddr
    split
    · exact h.rest
    · exact h
  readBeat _ _ _ _ _ h := h.rest
  partBeats _ _ h := h.rest
  liveWrite _ _ _ h := h.rest
  liveBeat _ _ _ h := by
    unfold liveBeatArrives
    split <;> exact h.rest
  response _ _ _ _ h := h.rest
  grantFwd _ s _ h := h.setFlight (o := s.writer.flight.map Flight.passedOver) Option.isSome_map
  grantWtr f s hf h := by
    have hsome : (some { f with phase := WritePhase.data s.openForwarded }).isSome = s.writer.flight.isSome := by
      rw [hf]
      rfl
    exact (h.setFlight (t := emit (.downWriteAddr Config.reservedId (Flight.burst f s.freeCount)) _) hsome).same
      (sameRing_sendWriterData _)
  beat _ _ _ h := h.rest
  dataDone s h :=
    (h.setFlight (o := s.writer.flight.map Flight.oneFewerAhead) Option.isSome_map).same (sameRing_sendWriterData _)
  begin _ h := h.toRingBut.beginWrite
  issue s hw _ h := by
    obtain ⟨-, f, hf, -, -⟩ := (awaits_iff _ _).1 hw
    exact h.setFlight (o := some (Writer.producerFlight s.writer s.freeCount)) (by rw [hf]; rfl)
  publish _ hw hp h := h.publish ((awaits_iff _ _).1 hw).1 hp
  fault k e _ hw hp h := h.writerFault k e ((awaits_iff _ _).1 hw).1 hp
  completed _ h := h.completed

/-- Settles O59: the ring's invariant with its queue is kept by every operation of the part. -/
theorem stepKeepsTheRing : Obligations.StepKeepsTheRing := by
  intro s t hhold hring hstep
  exact (ringOk_kept.step (RingOk.of_inv hhold hring) hstep).ringInv

end Sys2Proof.VerdictRing
end

section
/-! SUPPORT. The words of the ring: its configuration, RING_CTRL, RING_LEVEL and CONSUMER, each forwarded and then taken
as the writer's state and indices decide (R108 to R112, R118, R121). -/

namespace Sys2Proof.VerdictRing

open Sys2Proof Sys2Proof.Machine Sys2Proof.Safety Sys2Proof.MeasurementPlan

/-! ### The commands: the word is forwarded whether it is then taken or refused (R167) -/

section
variable {s : State} (hup : s.resetN = true)
include hup

theorem exec_ringLevelWrite (v : Word) :
    exec (.ringLevelWrite v) s = .next (takeRingLevel v (sentWord s 0x4000C v)) := next_whileUp hup

theorem exec_ringBaseWrite (v : Word) :
    exec (.ringBaseWrite v) s = .next (takeRingBase v (sentWord s 0x40010 v)) := next_whileUp hup

theorem exec_ringSizeWrite (v : Word) :
    exec (.ringSizeWrite v) s = .next (takeRingSize v (sentWord s 0x40014 v)) := next_whileUp hup

theorem exec_ringProdAddrWrite (v : Word) :
    exec (.ringProdAddrWrite v) s = .next (takeRingProdAddr v (sentWord s 0x40018 v)) := next_whileUp hup

theorem exec_ringEnable (high : BitVec 31) :
    exec (.ringEnable high) s = .next (ringEnable (sentWord s 0x4001C (high ++ 1#1))) := next_whileUp hup

theorem exec_ringDisable (high : BitVec 31) :
    exec (.ringDisable high) s = .next (ringDisable (sentWord s 0x4001C (high ++ 0#1))) := next_whileUp hup

theorem exec_consumerWrite (v : Word) :
    exec (.consumerWrite v) s = .next (takeConsumer v (sentWord s 0x41024 v)) := next_whileUp hup

end

/-! ### RING_BASE, RING_SIZE and RING_PROD_ADDR (R108) -/

section
variable {s : State}

theorem ringConfig_off (f : Writer → Writer) (h : s.writer.state = .off) :
    ringConfig f s = { s with writer := f s.writer } := if_pos h

theorem ringConfig_refused (f : Writer → Writer) (h : s.writer.state ≠ .off) : ringConfig f s = refused s := if_neg h

theorem takeRingSize_off (v : Word) (h : s.writer.state = .off) : takeRingSize v s =
    { s with writer := { s.writer with sizeCode := v.setWidth 4, producer := 0, consumer := 0 } } := by
  rw [takeRingSize, ← BitVec.setWidth_eq_extractLsb' (by decide)]
  exact ringConfig_off _ h

end

/-- Settles O20: the three words turn on the writer's state, which the forwarding of the word leaves. -/
theorem ringConfigurationWords : Obligations.RingConfigurationWords := by
  intro v s hup
  rw [exec_ringBaseWrite hup, exec_ringSizeWrite hup, exec_ringProdAddrWrite hup]
  refine ⟨fun hoff => ⟨?_, ?_, ?_⟩, fun hon => ⟨?_, ?_, ?_⟩⟩
  · exact congrArg _ (ringConfig_off (s := sentWord s 0x40010 v) _ hoff)
  · exact congrArg _ (takeRingSize_off (s := sentWord s 0x40014 v) v hoff)
  · exact congrArg _ (ringConfig_off (s := sentWord s 0x40018 v) _ hoff)
  · exact congrArg _ (ringConfig_refused (s := sentWord s 0x40010 v) _ hon)
  · exact congrArg _ (ringConfig_refused (s := sentWord s 0x40014 v) _ hon)
  · exact congrArg _ (ringConfig_refused (s := sentWord s 0x40018 v) _ hon)

/-! ### RING_LEVEL (R121) -/

theorem takeRingLevel_eq (v : Word) (s : State) :
    takeRingLevel v s = { s with writer := { s.writer with ringLevel := v.setWidth 16 } } := by
  rw [takeRingLevel, ← BitVec.setWidth_eq_extractLsb' (by decide)]

/-- The ring level is reached while it is not 0 and the fill is at least it (R121). -/
theorem levelReached_iff (w : Writer) :
    Writer.levelReached w = true ↔ w.ringLevel.toNat ≠ 0 ∧ w.ringLevel.toNat ≤ fillOf w := by
  rw [Writer.levelReached, fill_eq, Bool.and_eq_true, bne_iff_ne, decide_eq_true_eq, Ne, ← BitVec.toNat_inj]
  rfl

/-- Settles O15: the RING cause is the level reached, and no reset but the hardware's touches the level. -/
theorem ringLevelIsTakenAndReached : Obligations.RingLevelIsTakenAndReached := by
  refine ⟨fun v s hup => ?_, fun strb v s hup h0 h15 => ?_, fun s => levelReached_iff s.writer,
    fun s hfill hlevel => ?_, rfl, fun s => ⟨_, rfl, rfl⟩, fun s => rfl⟩
  · rw [exec_ringLevelWrite hup, takeRingLevel_eq]
    rfl
  · exact exec_partialStrobeWord (off := 0x4000C#20) v hup (by decide) (by decide) h0 h15
  · refine Bool.eq_false_iff.2 fun hreached => ?_
    obtain ⟨-, hle⟩ := (levelReached_iff s.writer).1 hreached
    omega

/-! ### RING_CTRL (R109, R110) -/

section
variable {s : State}

theorem ringEnable_ignored (h : s.writer.state ≠ .off) : ringEnable s = s := if_neg h

theorem ringEnable_refused (h : s.writer.state = .off) (hok : ¬ Writer.enableOk s.writer = true) :
    ringEnable s = refused s := (if_pos h).trans (if_neg hok)

/-- A legal enable makes the writer READY, and begins the first write where one is due (R109, R112). -/
theorem ringEnable_taken (h : s.writer.state = .off) (hok : Writer.enableOk s.writer = true) :
    ringEnable s = beginWrite { s with writer := { s.writer with state := .ready } } := (if_pos h).trans (if_pos hok)

theorem ringDisable_off (h : s.writer.state = .off) : ringDisable s = s := by
  unfold ringDisable
  rw [h]

theorem ringDisable_ready (h : s.writer.state = .ready) :
    ringDisable s = { s with writer := { s.writer with state := .off } } := by
  unfold ringDisable
  rw [h]

theorem ringDisable_refused (h : s.writer.state = .writing ∨ s.writer.state = .fault) :
    ringDisable s = refused s := by
  unfold ringDisable
  rcases h with h | h <;> rw [h] <;> rfl

end

/-- Settles O21: an enable is its check and then the start of a write; a disable turns on the writer's state alone. -/
theorem ringControlEnablesAndDisables : Obligations.RingControlEnablesAndDisables := by
  intro high s hup w ok f d
  have hok : Writer.enableOk w = true ↔ ok := enableOk_iff w
  rw [exec_ringEnable hup, exec_ringDisable hup]
  refine ⟨fun hon => congrArg _ (ringEnable_ignored (s := f) hon),
    fun hoff hnot => congrArg _ (ringEnable_refused (s := f) hoff (hnot ∘ hok.1)), fun hoff hyes hwait => ?_,
    fun head rest v hoff hyes hq hv hroom => ?_, fun hoff => congrArg _ (ringDisable_off (s := d) hoff),
    fun hready => congrArg _ (ringDisable_ready (s := d) hready),
    fun hbusy => congrArg _ (ringDisable_refused (s := d) hbusy)⟩
  · exact congrArg _ ((ringEnable_taken (s := f) hoff (hok.2 hyes)).trans
      (beginWrite_waits (s := { f with writer := { w with state := .ready } }) (.inr hwait)))
  · exact congrArg _ ((ringEnable_taken (s := f) hoff (hok.2 hyes)).trans
      (beginWrite_starts (s := { f with writer := { w with state := .ready } }) hq hv rfl hroom))

/-! ### CONSUMER (R118) -/

/-- A new index that passes no more than the fill is taken, and the next write begins where one is due (R112, R118). -/
theorem takeConsumer_taken {v : Word} {s : State} {new : BitVec 16} (hnew : v.setWidth 16 = new)
    (h : (new.toNat + 65536 - s.writer.consumer.toNat) % 65536 ≤ fillOf s.writer) :
    takeConsumer v s = beginWrite { s with writer := { s.writer with consumer := new } } := by
  subst hnew
  rw [← index_sub_toNat, ← fill_eq] at h
  rw [takeConsumer, ← BitVec.setWidth_eq_extractLsb' (by decide)]
  exact if_pos h

theorem takeConsumer_refused {v : Word} {s : State} {new : BitVec 16} (hnew : v.setWidth 16 = new)
    (h : fillOf s.writer < (new.toNat + 65536 - s.writer.consumer.toNat) % 65536) :
    takeConsumer v s = raiseConsumerRefused s := by
  subst hnew
  rw [← index_sub_toNat, ← fill_eq] at h
  rw [takeConsumer, ← BitVec.setWidth_eq_extractLsb' (by decide)]
  exact if_neg (Nat.not_le_of_lt h)

/-- Settles O29: the index is checked against the fill, and the start of a write reads the writer with the new index. -/
theorem consumerMovesWithinTheFill : Obligations.ConsumerMovesWithinTheFill := by
  intro v s hup new d f w'
  rw [exec_consumerWrite hup]
  have htaken (hd : d ≤ fillOf s.writer) : takeConsumer v f = beginWrite { f with writer := w' } :=
    takeConsumer_taken (s := f) rfl hd
  refine ⟨fun hd => congrArg _ (takeConsumer_refused (s := f) rfl hd), fun hd hidle => ?_,
    fun head rest r hd hready hq hr => ⟨fun hroom => ?_, fun hfull => ?_⟩, fun hd => fillOf_consumed hd⟩
  · exact congrArg _ ((htaken hd).trans
      (beginWrite_waits (s := { f with writer := w' }) (hidle.imp_right Or.inl)))
  · exact congrArg _ ((htaken hd).trans (beginWrite_starts (s := { f with writer := w' }) hq hr hready hroom))
  · exact congrArg _ ((htaken hd).trans (beginWrite_waits (s := { f with writer := w' }) (.inr (.inr hfull))))

end Sys2Proof.VerdictRing
end

section
/-! SUPPORT. The writer's write and the responses to it: the start of a record write, the producer word, the fault, and
the responses that the writer does not take (R103, R112 to R116, R123, R161). -/

namespace Sys2Proof.VerdictRing

open Sys2Proof Sys2Proof.Machine Sys2Proof.Safety Sys2Proof.MeasurementPlan Sys2Proof.ChannelEngines

/-! ### The producer word and the fault (R114, R116) -/

theorem recordOkay_free {s : State} (h : s.resetPending = false) : recordOkay s = issueProducerWord s := by
  rw [recordOkay, h]
  rfl

theorem producerOkay_free {s : State} (h : s.resetPending = false) : producerOkay s = publish s := by
  rw [producerOkay, h]
  rfl

theorem writeError_free (k : WriteKind) (e : ErrResp) {s : State} (h : s.resetPending = false) :
    writeError k e s = writerFault k e s := by
  rw [writeError, h]
  rfl

/-- The producer word is the producer plus one, modulo 65536 (R114). -/
theorem producerWord_toNat (p : BitVec 16) : (producerWord p).toNat = (p.toNat + 1) % 65536 := by
  have hone : (1 : BitVec 16).toNat = 1 := rfl
  rw [producerWord, BitVec.toNat_setWidth, BitVec.toNat_add, hone]
  omega

/-- RING_STATE reports the write that failed by its kind (R116). -/
theorem failed_eq (k : WriteKind) : WriteKind.failed k = if k = .record then .record else .producerWord := by
  cases k <;> rfl

/-! ### Responses that are not taken (R123, R161) -/

section
variable {s : State} {issued : Issued} (hup : s.resetN = true)
include hup

theorem exec_recordWriteBegin : exec .recordWriteBegin s = .next (beginWrite s) := next_whileUp hup

theorem exec_recordWriteOkay_not (h : ¬ (issued = .sinceReset ∧ Writer.awaits s.writer .record = true)) :
    exec (.recordWriteOkay issued) s = .next s := (next_whileUp hup).trans (congrArg _ (if_neg h))

theorem exec_publication_not (h : ¬ (issued = .sinceReset ∧ Writer.awaits s.writer .producerWord = true)) :
    exec (.publication issued) s = .next s := (next_whileUp hup).trans (congrArg _ (if_neg h))

theorem exec_writeErrorResponse_not (e : ErrResp)
    (hrecord : ¬ (issued = .sinceReset ∧ Writer.awaits s.writer .record = true))
    (hproducer : ¬ (issued = .sinceReset ∧ Writer.awaits s.writer .producerWord = true)) :
    exec (.writeErrorResponse e issued) s = .next s :=
  (next_whileUp hup).trans (congrArg _ ((if_neg hrecord).trans (if_neg hproducer)))

theorem exec_planResetCompletion_not (resp : Resp)
    (h : ¬ (issued = .sinceReset ∧ s.resetPending = true ∧ Writer.awaitsAny s.writer = true)) :
    exec (.planResetCompletion resp issued) s = .next s := (next_whileUp hup).trans (congrArg _ (if_neg h))

end

/-- The writer awaits a response exactly where it awaits that to one of its two writes. -/
theorem awaitsAny_iff (w : Writer) : Writer.awaitsAny w = true ↔
    Writer.awaits w .record = true ∨ Writer.awaits w .producerWord = true := by
  rw [Writer.awaitsAny, Bool.or_eq_true]

/-- Settles O44: the start of a write is R112's, and a response acts exactly where the writer awaits it. -/
theorem writerBeginsContinuesAndFaults : Obligations.WriterBeginsContinuesAndFaults := by
  refine ⟨fun s hup => ?_, fun e s hup => ⟨fun f hfree hw hf hphase => ?_, ?_, ?_, ?_, fun resp => ?_⟩⟩
  · intro w
    rw [exec_recordWriteBegin hup]
    refine ⟨fun head rest v hq hv hready hroom => congrArg _ (beginWrite_starts hq hv hready hroom),
      fun hwait => congrArg _ (beginWrite_waits hwait), fun f hfree hw hf hkind hphase => ?_,
      exec_recordWriteOkay_not hup nofun⟩
    refine ⟨Config.producerIdleHalf s.freeCount, producerWord w.producer, producerWord_toNat _, ?_⟩
    rw [exec_recordWriteOkay hup ((awaits_iff _ _).2 ⟨hw, f, hf, hkind, hphase⟩), recordOkay_free hfree]
    rfl
  · rw [exec_writeErrorResponse hup e ((awaits_iff _ _).2 ⟨hw, f, hf, rfl, hphase⟩), writeError_free _ e hfree,
      writerFault, failed_eq]
  · intro awaits
    have hiff (k : WriteKind) : Writer.awaits s.writer k = true ↔ awaits k := awaits_iff s.writer k
    refine ⟨fun hr => exec_recordWriteOkay_not hup fun h => hr ((hiff _).1 h.2),
      fun hp => exec_publication_not hup fun h => hp ((hiff _).1 h.2), fun hr hp => ⟨?_, fun resp => ?_⟩,
      fun hfree resp => exec_planResetCompletion_not hup resp fun h => ?_⟩
    · exact exec_writeErrorResponse_not hup e (fun h => hr ((hiff _).1 h.2)) fun h => hp ((hiff _).1 h.2)
    · refine exec_planResetCompletion_not hup resp fun h => ?_
      rcases (awaitsAny_iff _).1 h.2.2 with h | h
      · exact hr ((hiff _).1 h)
      · exact hp ((hiff _).1 h)
    · exact Bool.noConfusion (hfree.symm.trans h.2.1)
  · exact exec_writeErrorResponse_not hup e nofun nofun
  · exact exec_publication_not hup nofun
  · exact exec_planResetCompletion_not hup resp nofun

end Sys2Proof.VerdictRing
end

section
/-! SUPPORT. Publication: where a release leads, the state in which it leaves the head's channel, and the write that
begins after it (R56 to R59, R112, R115, R177, R183). -/

namespace Sys2Proof.VerdictRing

open Sys2Proof Sys2Proof.Machine Sys2Proof.Safety Sys2Proof.ChannelEngines Sys2Proof.BoardLearning

/-! ### Where a release leads (R56, R57, R183) -/

/-- A channel that holds a verdict chains to a next step: its chain is not suppressed, the step is one, and the policy
of its snapshot lets the outcome chain. -/
def ChainsTo (c : Channel) (v : Verdict) (n : BitVec 16) : Prop :=
  c.chainSuppressed = false ∧ n ≠ 8191#16 ∧ ∃ sn, c.snapshot = some sn ∧ n = sn.host.nextStep ∧
    (sn.host.policy = .onPass ∧ v.outcome = .pass ∨
      sn.host.policy = .always ∧ v.outcome ≠ .aborted ∧ v.outcome ≠ .guard ∧ v.outcome ≠ .charge)

/-- The outcomes that each policy lets chain (R56, R183). -/
theorem lets_iff (p : ChainPolicy) (o : VerdictCode) : ChainPolicy.lets p o = true ↔
    p = .onPass ∧ o = .pass ∨ p = .always ∧ o ≠ .aborted ∧ o ≠ .guard ∧ o ≠ .charge := by
  cases p with
  | never => simp [ChainPolicy.lets]
  | onPass => simp [ChainPolicy.lets]
  | always => simp [ChainPolicy.lets, suppresses_eq, and_assoc]
  | code3 => simp [ChainPolicy.lets]

/-- A release leads to a step exactly where the channel chains to it. -/
theorem chainTarget_eq_some_iff {c : Channel} {v : Verdict} (hv : c.held = some v) (t : StepNo) :
    Channel.chainTarget c = some t ↔ ∃ n, ChainsTo c v n ∧ n.setWidth 13 = t := by
  unfold Channel.chainTarget ChainsTo
  cases hs : c.snapshot with
  | none => simp
  | some sn => simp [hv, lets_iff, and_assoc]

/-- A chain starts where its entry is valid and the entry's source is not tripped (R57). -/
theorem chainPasses_iff (s : State) (t : StepNo) : s.chainPasses t = true ↔
    (s.entry t.toNat).valid = true ∧ TripSet.nonempty (s.src (s.entry t.toNat).host.source).trips = false := by
  simp [State.chainPasses, State.sourceTripped]

/-! ### The release before the write that it may begin -/

/-- The state of a refused chain before a write begins: the channel holds a CHAIN_REFUSED verdict and stands at the tail
of the queue (R59). -/
def rejoined (ch : ChanNo) (t : StepNo) (s : State) : State :=
  { s.setCh ch { s.ch ch with
      step := t, snapshot := none, latchedBand := s.band.current, chainSuppressed := true, state := .holding,
      held := some (refusedVerdict s ch t) } with queue := s.queue ++ [ch] }

theorem chainRefuse_eq (ch : ChanNo) (t : StepNo) (s : State) : chainRefuse ch t s = beginWrite (rejoined ch t s) := rfl

/-- A write that has begun, or cannot begin, does not begin again (R112). -/
theorem beginWrite_beginWrite (s : State) : beginWrite (beginWrite s) = beginWrite s := by
  rcases beginWrite_cases s with h | ⟨_, _, _, _, _, _, _, h⟩
  · rw [h, h]
  · exact beginWrite_waits (.inl (by rw [h]; exact nofun))

/-- The release of a channel before a write begins: `release` without the write that a refused chain begins. -/
def released (ch : ChanNo) (s : State) : State :=
  match Channel.chainTarget (s.ch ch) with
  | none => releaseIdle ch s
  | some t => if s.chainPasses t then chainStart ch t s else rejoined ch t s

section
variable {s : State} {ch : ChanNo} {t : StepNo}

theorem released_eq_idle (h : Channel.chainTarget (s.ch ch) = none) : released ch s = releaseIdle ch s := by
  rw [released, h]

theorem released_eq_start (h : Channel.chainTarget (s.ch ch) = some t) (hp : s.chainPasses t = true) :
    released ch s = chainStart ch t s := by
  rw [released, h]
  exact if_pos hp

theorem released_eq_rejoined (h : Channel.chainTarget (s.ch ch) = some t) (hp : ¬ s.chainPasses t = true) :
    released ch s = rejoined ch t s := by
  rw [released, h]
  exact if_neg hp

end

/-- A release and the start of a write are the release before a write begins and one start. -/
theorem beginWrite_release (ch : ChanNo) (s : State) : beginWrite (release ch s) = beginWrite (released ch s) := by
  unfold release
  split
  · next h => rw [released_eq_idle h]
  · next t h =>
    split
    · next hp => rw [released_eq_start h hp]
    · next hp => rw [released_eq_rejoined h hp, chainRefuse_eq, beginWrite_beginWrite]

/-- What every release leaves alone before a write begins: the other channels, and all but the channels, the table, the
queue and DRAINED. -/
structure ReleaseFrame (ch : ChanNo) (s t : State) : Prop where
  others : ∀ j, j ≠ ch → t.ch j = s.ch j
  eq     : t = { s with chans := t.chans, table := t.table, queue := t.queue,
                        flags := { s.flags with drained := t.flags.drained } }

theorem ReleaseFrame.setCh (s : State) (ch : ChanNo) (c : Channel) : ReleaseFrame ch s (s.setCh ch c) :=
  ⟨fun j hj => setCh_ch_other s ch j c hj.symm, rfl⟩

/-- A channel set to IDLE (R56). -/
def idled (ch : ChanNo) (s : State) : State :=
  s.setCh ch { s.ch ch with held := none, state := .idle, step := 8191#13, snapshot := none, chainSuppressed := false }

theorem releaseIdle_eq (ch : ChanNo) (s : State) :
    releaseIdle ch s = if (idled ch s).quiet then raiseDrained (idled ch s) else idled ch s := rfl

theorem releaseIdle_frame (ch : ChanNo) (s : State) : ReleaseFrame ch s (releaseIdle ch s) := by
  rw [releaseIdle_eq]
  split
  · exact ⟨(ReleaseFrame.setCh s ch _).others, rfl⟩
  · exact .setCh s ch _

/-- A chain start writes the channels and the table (R58). -/
theorem chainStart_eq (ch : ChanNo) (t : StepNo) (s : State) : chainStart ch t s =
    { s with chans := (chainStart ch t s).chans, table := (startRun ch t s).table } := by
  unfold chainStart
  dsimp only
  split <;> rfl

theorem chainStart_entry (ch : ChanNo) (t : StepNo) (s : State) (m : Nat) :
    (chainStart ch t s).entry m = (startRun ch t s).entry m := entry_congr (by rw [chainStart_eq]) m

theorem chainStart_others (ch : ChanNo) (t : StepNo) (s : State) {j : ChanNo} (hj : j ≠ ch) :
    (chainStart ch t s).ch j = s.ch j := by
  unfold chainStart
  dsimp only
  split
  · rw [setCh_ch_other _ _ _ _ hj.symm, startRun_ch_other t s hj]
  · exact startRun_ch_other t s hj

theorem chainStart_released (ch : ChanNo) (t : StepNo) (s : State) : ReleaseFrame ch s (chainStart ch t s) :=
  ⟨fun _ hj => chainStart_others ch t s hj, by rw [chainStart_eq]⟩

theorem released_frame (ch : ChanNo) (s : State) : ReleaseFrame ch s (released ch s) := by
  unfold released
  split
  · exact releaseIdle_frame ch s
  · split
    · exact chainStart_released ch _ s
    · exact ⟨(ReleaseFrame.setCh s ch _).others, rfl⟩

/-! ### What each release does to its channel -/

/-- A release without a chain: the channel is IDLE, and DRAINED is raised where that leaves the part quiet (R56,
R177). -/
structure Idled (ch : ChanNo) (s t : State) : Prop where
  queue   : t.queue = s.queue
  table   : t.table = s.table
  context : t.ch ch = { s.ch ch with
    held := none, state := .idle, step := 8191#13, snapshot := none, chainSuppressed := false }
  drained : t.flags.drained = true ↔
    s.flags.drained = true ∨ s.queue = [] ∧ ∀ j, j ≠ ch → (s.ch j).state = .idle

/-- With one channel IDLE the part is quiet where the others are and the queue is empty (R177). -/
theorem idled_quiet_iff (ch : ChanNo) (s : State) :
    (idled ch s).quiet = true ↔ s.queue = [] ∧ ∀ j, j ≠ ch → (s.ch j).state = .idle := by
  rw [quiet_iff, and_comm]
  refine and_congr Iff.rfl ⟨fun h j hj => ?_, fun h j => ?_⟩
  · rw [← setCh_ch_other s ch j _ hj.symm]
    exact h j
  · by_cases hj : j = ch
    · rw [hj, idled, setCh_ch_same]
    · rw [idled, setCh_ch_other s ch j _ (Ne.symm hj)]
      exact h j hj

/-- Where no chain follows, the release is one to IDLE (R56). -/
theorem released_idled {ch : ChanNo} {s : State} (h : Channel.chainTarget (s.ch ch) = none) :
    Idled ch s (released ch s) := by
  rw [released_eq_idle h, releaseIdle_eq]
  split
  · next hq =>
    exact ⟨rfl, rfl, setCh_ch_same s ch _, ⟨fun _ => .inr ((idled_quiet_iff ch s).1 hq), fun _ => rfl⟩⟩
  · next hq =>
    exact ⟨rfl, rfl, setCh_ch_same s ch _,
      ⟨.inl, fun h => h.elim id fun hquiet => absurd ((idled_quiet_iff ch s).2 hquiet) hq⟩⟩

/-- A chain that passes its checks: the run of the next step starts, with contact carried where touch is held (R58). -/
structure ChainStarted (ch : ChanNo) (n : StepNo) (s t : State) : Prop where
  queue   : t.queue = s.queue
  drained : t.flags.drained = s.flags.drained
  runs    : t.entry n.toNat = { s.entry n.toNat with runs := (s.entry n.toNat).runs + 1 }
  entries : ∀ m, m ≠ n.toNat → t.entry m = s.entry m
  anew    : (s.ch ch).touchHeld = false →
    t.ch ch = started (s.ch ch) (snapshotOf s n) s.timebase s.band.current
  carried : (s.ch ch).touchHeld = true →
    t.ch ch = settling { started (s.ch ch) (snapshotOf s n) s.timebase s.band.current with
        touchRun := (s.entry n.toNat).host.contactRun.toNat, contactSeen := true, carried := true, touchHeld := true }
      (s.entry n.toNat).host.settle.toNat s.band.current

/-- A run started with contact carried over (R58). -/
theorem chainStart_carries {ch : ChanNo} {s : State} (n : StepNo) (h : (s.ch ch).touchHeld = true) :
    chainStart ch n s = (startRun ch n s).setCh ch
      (Channel.carry ((startRun ch n s).ch ch) (s.entry n.toNat).host s.band.current) := if_pos h

/-- A run started without contact (R58). -/
theorem chainStart_anew {ch : ChanNo} {s : State} (n : StepNo) (h : (s.ch ch).touchHeld = false) :
    chainStart ch n s = startRun ch n s := by
  rw [chainStart, h]
  rfl

/-- Where the chain's target passes, the release starts its run (R58). -/
theorem released_started {ch : ChanNo} {s : State} {n : StepNo} (h : Channel.chainTarget (s.ch ch) = some n)
    (hp : s.chainPasses n = true) : ChainStarted ch n s (released ch s) := by
  rw [released_eq_start h hp]
  exact
    { queue := by rw [chainStart_eq]
      drained := by rw [chainStart_eq]
      runs := by rw [chainStart_entry, startRun_entry, if_pos rfl]
      entries := fun m hm => by rw [chainStart_entry, startRun_entry, if_neg hm.symm]
      anew := fun ht => by rw [chainStart_anew n ht, startRun_ch_same]
      carried := fun ht => by
        rw [chainStart_carries n ht, setCh_ch_same, startRun_ch_same, Channel.carry, settle_eq] }

/-! ### Publication (R115) -/

/-- The state of a publication before its head is released: the producer has advanced and the head has left the
queue. -/
def advanced (s : State) (rest : List ChanNo) : State :=
  { s with queue := rest, writer := { s.writer with
      producer := s.writer.producer + 1, state := .ready, flight := none } }

theorem publish_eq {s : State} {head : ChanNo} {rest : List ChanNo} (hq : s.queue = head :: rest) :
    publish s = beginWrite (released head (advanced s rest)) := by
  rw [publish, hq]
  exact beginWrite_release head (advanced s rest)

/-- The start of a write leaves everything but the writer. -/
theorem beginWrite_eq (s : State) : beginWrite s = { s with writer := (beginWrite s).writer } := by
  rcases beginWrite_cases s with h | ⟨_, _, _, _, _, _, _, h⟩ <;> rw [h]

theorem beginWrite_flags (s : State) : (beginWrite s).flags = s.flags := by rw [beginWrite_eq]

/-- What a publication leaves alone beside its head and the writer (R115). -/
theorem ReleaseFrame.published {head : ChanNo} {rest : List ChanNo} {s u : State}
    (h : ReleaseFrame head (advanced s rest) u) : beginWrite u =
      { s with chans := (beginWrite u).chans, table := (beginWrite u).table, queue := (beginWrite u).queue,
               writer := (beginWrite u).writer,
               flags := { s.flags with drained := (beginWrite u).flags.drained } } := by
  rw [beginWrite_eq u]
  generalize (beginWrite u).writer = x
  rw [h.eq]
  rfl

/-- The step number of a chain's target is the next step of its snapshot. -/
theorem toNat_nextStep {n : BitVec 16} (h : n.toNat ≤ 8191) : (n.setWidth 13 : StepNo).toNat = n.toNat := by
  rw [BitVec.toNat_setWidth]
  omega

/-- Settles O45: a publication is the release of its head before a write begins, and then the start of a write; the
release is one of three. -/
theorem publicationReleasesTheHead : Obligations.PublicationReleasesTheHead := by
  intro s f head rest v hup hfree hw hf hkind hphase hq hv c chainsTo w
  have htarget : ∀ t, Channel.chainTarget c = some t ↔ ∃ n, chainsTo n ∧ n.setWidth 13 = t :=
    chainTarget_eq_some_iff hv
  set u := released head (advanced s rest)
  have hexec : exec (.publication .sinceReset) s = .next (beginWrite u) := by
    rw [exec_publication hup ((awaits_iff _ _).2 ⟨hw, f, hf, hkind, hphase⟩), producerOkay_free hfree, publish_eq hq]
  have hframe : ReleaseFrame head (advanced s rest) u := released_frame head _
  have huw : u.writer = w := congrArg State.writer hframe.eq
  refine ⟨_, hexec, fun j hj => ?_, fun hwait => ?_, fun h q r hhead hr hroom => ?_, hframe.published,
    fun hnone => ?_, fun n hn hle => ?_⟩
  · rw [beginWrite_ch]
    exact hframe.others j hj
  · rw [beginWrite_queue, ← huw] at hwait
    rw [beginWrite_waits (.inr hwait.symm), huw]
  · rw [beginWrite_queue] at hhead
    rw [beginWrite_ch] at hr
    rw [beginWrite_starts hhead hr (by rw [huw]) (by rw [huw]; exact hroom), huw]
  · have hidle : Channel.chainTarget c = none := Option.eq_none_iff_forall_ne_some.2 fun t ht => by
      obtain ⟨n, hn, -⟩ := (htarget t).1 ht
      exact hnone n hn
    have hidled : Idled head (advanced s rest) u := released_idled (s := advanced s rest) hidle
    rw [beginWrite_queue, beginWrite_table, beginWrite_ch, beginWrite_flags]
    exact ⟨hidled.queue, hidled.table, hidled.context, hidled.drained⟩
  · intro target passes
    have hto : Channel.chainTarget c = some (n.setWidth 13) := (htarget _).2 ⟨n, hn, rfl⟩
    have hstep : (n.setWidth 13 : StepNo).toNat = n.toNat := toNat_nextStep hle
    have hpasses : (advanced s rest).chainPasses (n.setWidth 13) = true ↔ passes := by
      rw [chainPasses_iff, hstep]
      rfl
    have hstarts (hp : passes) : ChainStarted head (n.setWidth 13) (advanced s rest) u :=
      released_started (s := advanced s rest) hto (hpasses.2 hp)
    have hrejoins (hp : ¬ passes) : u = rejoined head (n.setWidth 13) (advanced s rest) :=
      released_eq_rejoined (s := advanced s rest) hto (hp ∘ hpasses.1)
    rw [beginWrite_queue, beginWrite_table, beginWrite_ch, beginWrite_flags]
    refine ⟨?_, fun hp => ?_, fun hp => ?_⟩
    · by_cases hp : passes
      · exact (hstarts hp).drained
      · rw [hrejoins hp]
        rfl
    · obtain ⟨hqueue, -, hruns, hentries, hanew, hcarried⟩ := hstarts hp
      rw [hstep] at hruns hentries hcarried
      exact ⟨hqueue, (beginWrite_entry u _).trans hruns, fun m hm => (beginWrite_entry u m).trans (hentries m hm),
        hanew, hcarried⟩
    · rw [hrejoins hp]
      exact ⟨rfl, rfl, setCh_ch_same (advanced s rest) head _⟩

end Sys2Proof.VerdictRing
end

section
/-! SUPPORT. Learn records and trips over the events of a run: what a qualification leaves of a record, no run in flight
bound to a tripped source, and every way a run starts, goes on and ends (R13, R89, R96, R133, R134). -/

namespace Sys2Proof.StimulusGuard

open Sys2Proof Sys2Proof.Machine Sys2Proof.Safety Sys2Proof.MeasurementPlan Sys2Proof.BoardLearning

/-! ### Learn records -/

/-- A record within its count, and cleared where it has learned nothing (R13, R96). -/
def RecordOk (r : LearnRecord) : Prop := r.count ≤ 15 ∧ (r.count = 0 → r = LearnRecord.cleared)

theorem recordOk_cleared : RecordOk .cleared := ⟨Nat.zero_le _, fun _ => rfl⟩

/-- A record that has learned something. -/
theorem recordOk_of_pos {r : LearnRecord} (h : r.count ≤ 15) (hpos : r.count ≠ 0) : RecordOk r :=
  ⟨h, fun h0 => absurd h0 hpos⟩

section
variable {r : LearnRecord} {k : Nat} {tolerance learnFloor : Word}

/-- Lazy derivation acts on records that have learned something alone (R91). -/
theorem RecordOk.lazy (h : RecordOk r) (hk : 1 ≤ k) : RecordOk (LearnRecord.lazy r k tolerance learnFloor) := by
  rw [lazy_eq]
  split
  · next hd => exact recordOk_of_pos h.1 (show r.count ≠ 0 by omega)
  · exact h

/-- A record that lazy derivation leaves underived is short of the learn target (R91). -/
theorem count_lt_of_lazy (hd : (LearnRecord.lazy r k tolerance learnFloor).derived = false) :
    (LearnRecord.lazy r k tolerance learnFloor).count < k := by
  rw [lazy_eq] at hd ⊢
  split at hd
  · cases hd
  · next hnot =>
    rw [if_neg hnot]
    exact Nat.lt_of_not_le fun hle => hnot ⟨hd, hle⟩

/-- A value learned below the target leaves a record of at most the target (R96). -/
theorem recordOk_learn (v : Int) (board : BitVec 16) (hcount : r.count < k) (hk : k ≤ 15) :
    RecordOk (LearnRecord.learn r v board k tolerance learnFloor) := by
  have hadd : (LearnRecord.add r v board).count = r.count + 1 := rfl
  have hlearn : (LearnRecord.learn r v board k tolerance learnFloor).count = r.count + 1 := by
    unfold LearnRecord.learn
    dsimp only
    split <;> exact hadd
  exact recordOk_of_pos (by omega) (by omega)

/-- The stages after lazy derivation learn at most one value (R90). -/
theorem recordOk_stages (h : HostFields) (boardOpen : Bool) (board : BitVec 16) (v : Int) (hr : RecordOk r)
    (hshort : r.derived = false → r.count < k) (hk : k ≤ 15) :
    RecordOk (qualifyStages r h boardOpen board k v).learn := by
  cases hd : r.derived with
  | true => rw [qualifyStages_derived hd]; exact hr
  | false =>
    cases boardOpen with
    | false => rw [qualifyStages_noBoard hd]; exact hr
    | true =>
      rw [qualifyStages_open hd]
      split_ifs
      · exact hr
      · exact hr
      · exact recordOk_learn v board (hshort hd) hk

end

/-- A qualification leaves its entry's record within its count (R65, R70, R90). -/
theorem recordOk_qualify {s : State} {sn : Snapshot} (v : Int) (htarget : 1 ≤ s.learnTarget.toNat)
    (h : RecordOk (s.entry sn.step.toNat).learn) : RecordOk (qualify s sn v).learn := by
  cases hm : sn.host.limitMode with
  | learn =>
    by_cases hgen : sn.generation = (s.entry sn.step.toNat).generation
    · have hk := s.learnTarget.isLt
      rw [qualify_learn_fresh hm hgen]
      exact recordOk_stages _ _ _ _ (h.lazy htarget) count_lt_of_lazy (by omega)
    · rw [qualify_learn_stale hm hgen]
      exact h
  | fixed => rw [Qualification.qualify_fixed hm]; exact h
  | lowOnly => rw [Qualification.qualify_lowOnly hm]; exact h
  | highOnly => rw [Qualification.qualify_highOnly hm]; exact h

/-! ### Runs and the sources they are bound to -/

/-- A context whose run is bound to no tripped source. -/
def Untripped (s : State) (c : Channel) : Prop :=
  ∀ src, Channel.boundTo c src = true → TripSet.nonempty (s.src src).trips = false

theorem tripInv_iff (s : State) : TripInv s ↔ ∀ ch, Untripped s (s.ch ch) := by
  refine ⟨fun h ch src hb => ?_, fun h src ht ch => ?_⟩
  · by_contra hne
    rw [Bool.not_eq_false] at hne
    rw [h src hne ch] at hb
    cases hb
  · by_contra hne
    rw [Bool.not_eq_false] at hne
    rw [h ch src hne] at ht
    cases ht

/-- A context without a run in flight is bound to no source. -/
theorem boundTo_landed {c : Channel} (h : Channel.inFlight c = false) (src : SrcNo) :
    Channel.boundTo c src = false := by
  rw [Channel.boundTo, h, Bool.false_and]

theorem untripped_landed {s : State} {c : Channel} (h : Channel.inFlight c = false) : Untripped s c := fun src hb => by
  rw [boundTo_landed h] at hb
  cases hb

/-- A run stays bound to its source while it is in flight or not as it was, on the same snapshot. -/
theorem Untripped.congr {s : State} {c d : Channel} (h : Untripped s c)
    (hf : Channel.inFlight d = Channel.inFlight c) (hs : d.snapshot = c.snapshot) : Untripped s d := fun src hb =>
  h src (by rw [Channel.boundTo, ← hf, ← hs]; exact hb)

/-- A run started on an entry's snapshot is bound to the entry's source alone, which the start has checked (R41, R57). -/
theorem untripped_of_snapshot {s : State} {e : Entry} {n : StepNo} {c : Channel} (ht : s.sourceTripped e = false)
    (hs : c.snapshot = some (Entry.snapshot e n)) : Untripped s c := fun src hb => by
  obtain ⟨sn, hsn, -, rfl⟩ := (boundTo_iff c src).1 hb
  obtain rfl := Option.some.inj (hs.symm.trans hsn)
  exact ht

/-! ### The invariant of records and runs -/

/-- The step table in its canonical form, its records within their counts, and the learn target 1 or more. -/
structure RecordsOk (s : State) : Prop where
  canonical : Table.wf s.table = true
  target    : 1 ≤ s.learnTarget.toNat
  records   : ∀ n, RecordOk (s.entry n).learn

/-- The records, and the runs in flight, none bound to a tripped source. -/
structure RunsOk (s : State) : Prop extends RecordsOk s where
  untripped : ∀ ch, Untripped s (s.ch ch)

theorem runsOk_iff (s : State) : RunsOk s ↔ Table.wf s.table = true ∧ LearnInv s ∧ TripInv s := by
  rw [tripInv_iff]
  exact ⟨fun h => ⟨h.canonical, ⟨h.target, fun n => (h.records n).1, fun n => (h.records n).2⟩, h.untripped⟩,
    fun ⟨hwf, hl, ht⟩ => ⟨⟨hwf, hl.target, fun n => ⟨hl.counts n, hl.fresh n⟩⟩, ht⟩⟩

namespace RecordsOk

variable {s t : State}

theorem congr (h : RecordsOk s) (ht : t.table = s.table) (hk : t.learnTarget = s.learnTarget) : RecordsOk t where
  canonical := ht ▸ h.canonical
  target := hk ▸ h.target
  records n := by rw [entry_congr ht]; exact h.records n

theorem setEntry {n : Nat} {e : Entry} (h : RecordsOk s) (he : RecordOk e.learn) : RecordsOk (s.setEntry n e) where
  canonical := Table.wf_set n e h.canonical
  target := h.target
  records m := by
    rw [setEntry_entry]
    split
    · exact he
    · exact h.records m

/-- A run that ends without a judged set leaves its entry's record (R53, R99). -/
theorem endRun (ch : ChanNo) (e : Ending) (h : RecordsOk s) : RecordsOk (endRun ch e s) := by
  unfold Machine.endRun
  split
  · exact h
  · next sn _ =>
    have hentry : RecordsOk (s.setEntry sn.step.toNat (Entry.endRun (s.entry sn.step.toNat))) :=
      h.setEntry (h.records sn.step.toNat)
    exact hentry.congr (joinQueue_table ch _) (by rw [(joinQueue_frame ch _).eq]; rfl)

end RecordsOk

namespace RunsOk

variable {s t : State}

/-- An operation that leaves the table, the learn target, the channels and the trips alone by definition. -/
theorem rest (h : RunsOk s) (ht : t.table = s.table := by rfl) (hk : t.learnTarget = s.learnTarget := by rfl)
    (hc : t.chans = s.chans := by rfl) (hs : ∀ src, (t.src src).trips = (s.src src).trips := by exact fun _ => rfl) :
    RunsOk t where
  toRecordsOk := h.toRecordsOk.congr ht hk
  untripped ch src hb := by
    rw [ch_congr hc] at hb
    rw [hs]
    exact h.untripped ch src hb

theorem setEntry {n : Nat} {e : Entry} (h : RunsOk s) (he : RecordOk e.learn) : RunsOk (s.setEntry n e) where
  toRecordsOk := h.toRecordsOk.setEntry he
  untripped := h.untripped

theorem setCh {ch : ChanNo} {c : Channel} (h : RunsOk s) (hc : Untripped s c) : RunsOk (s.setCh ch c) where
  toRecordsOk := h.toRecordsOk.congr rfl rfl
  untripped j := by
    rw [setCh_ch]
    split
    · exact hc
    · exact h.untripped j

/-- The start of a write leaves everything but the writer. -/
theorem beginWrite (h : RunsOk s) : RunsOk (beginWrite s) := by
  rw [VerdictRing.beginWrite_eq]
  exact h.rest

theorem joinQueue (ch : ChanNo) (h : RunsOk s) : RunsOk (joinQueue ch s) :=
  beginWrite (s := { s with queue := s.queue ++ [ch] }) h.rest

/-- A change of every record of the table, on channels without a tripped run. -/
theorem mapAll {f : Entry → Entry} (h : RunsOk s) (hr : f Entry.reset = Entry.reset)
    (hf : ∀ e, RecordOk e.learn → RecordOk (f e).learn) : RunsOk { s with table := Table.mapAll f s.table } where
  canonical := Table.wf_mapAll f h.canonical
  target := h.target
  records n := by
    have hget : State.entry { s with table := Table.mapAll f s.table } n = f (s.entry n) :=
      Table.get_mapAll f hr h.canonical n
    rw [hget]
    exact hf _ (h.records n)
  untripped := h.untripped

/-- A run that ends is bound to no source any more (R53). -/
theorem endRun (ch : ChanNo) (e : Ending) (h : RunsOk s) : RunsOk (endRun ch e s) := by
  unfold Machine.endRun
  split
  · exact h
  · next sn _ =>
    have hentry : RunsOk (s.setEntry sn.step.toNat (Entry.endRun (s.entry sn.step.toNat))) :=
      h.setEntry (h.records sn.step.toNat)
    refine (hentry.setCh ?_).joinQueue ch
    exact untripped_landed rfl

/-- A run starts on a source that is not tripped (R41, R42, R57). -/
theorem startRun (ch : ChanNo) {n : StepNo} (h : RunsOk s) (ht : s.sourceTripped (s.entry n.toNat) = false) :
    RunsOk (startRun ch n s) := by
  have hentry : RunsOk (s.setEntry n.toNat (Entry.beginRun (s.entry n.toNat))) := h.setEntry (h.records n.toNat)
  refine hentry.setCh (untripped_of_snapshot (e := s.entry n.toNat) (n := n) ht ?_)
  rfl

/-- A chain that passes its checks starts on a source that is not tripped (R57, R58). -/
theorem chainStart (ch : ChanNo) {n : StepNo} (h : RunsOk s) (ht : s.sourceTripped (s.entry n.toNat) = false) :
    RunsOk (chainStart ch n s) := by
  cases hheld : (s.ch ch).touchHeld with
  | false =>
    rw [VerdictRing.chainStart_anew n hheld]
    exact h.startRun ch ht
  | true =>
    rw [VerdictRing.chainStart_carries n hheld]
    refine (h.startRun ch ht).setCh (untripped_of_snapshot (e := s.entry n.toNat) (n := n) ht ?_)
    rw [ChannelEngines.startRun_ch_same, Channel.carry, (RunKept.settle_run _ _ _).2.1]
    rfl

/-- A channel released is IDLE, on a run that its checks have passed, or HOLDING again (R56 to R59). -/
theorem release (ch : ChanNo) (h : RunsOk s) : RunsOk (release ch s) := by
  unfold Machine.release
  split
  · have hidled : RunsOk (VerdictRing.idled ch s) := h.setCh (untripped_landed rfl)
    rw [VerdictRing.releaseIdle_eq]
    split
    · exact hidled.rest
    · exact hidled
  · next n _ =>
    split
    · next hp => exact h.chainStart ch ((VerdictRing.chainPasses_iff s n).1 hp).2
    · exact (h.setCh (untripped_landed rfl)).joinQueue ch

/-- Publication releases the head (R115). -/
theorem publish (h : RunsOk s) : RunsOk (publish s) := by
  unfold Machine.publish
  split
  · exact h
  · next head rest _ =>
    have hleft : RunsOk (VerdictRing.advanced s rest) := h.rest
    exact (hleft.release head).beginWrite

/-- The completion of a plan reset leaves no run and no trip, and the records as they are (R63, R145, R173). -/
theorem completed (h : RunsOk s) : RunsOk (completePlanReset s) := by
  have hdone := completePlanReset_done h.canonical
  refine ⟨⟨Table.wf_mapAll _ h.canonical, h.target, fun n => ?_⟩, fun ch => ?_⟩
  · rw [hdone.entries n]
    exact h.records n
  · rw [hdone.channels ch]
    exact untripped_landed rfl

end RunsOk

/-- The ways a run goes on, ends and starts keep the records and the runs off tripped sources. -/
theorem runsOk_runKept : RunKept RunsOk where
  tweak ch c s hf hc _ h := h.setCh ((h.untripped ch).congr (hc.inFlight.trans hf.symm) hc.snapshot)
  aside ch c s hst hsn _ _ _ _ _ _ _ h :=
    h.setCh ((h.untripped ch).congr (by rw [Channel.inFlight, Channel.inFlight, hst]) hsn)
  ended ch c e s hf hc h :=
    (h.setCh ((h.untripped ch).congr (hc.inFlight.trans hf.symm) hc.snapshot)).endRun ch e
  judged ch c e sn v s hf hc _ h := by
    have hset : RunsOk (s.setCh ch c) :=
      h.setCh ((h.untripped ch).congr (hc.inFlight.trans hf.symm) hc.snapshot)
    exact (hset.setEntry (recordOk_qualify v hset.target (hset.records _))).endRun ch e
  started ch n s _ _ _ ht h := h.startRun ch ht
  tick _ h := h.rest
  tap _ _ _ h := h.rest

/-! ### Trips (R133, R134) -/

/-- After a trip no run is bound to its source (R133). -/
theorem endBoundRuns_unbound (src : SrcNo) (s : State) (ch : ChanNo) :
    Channel.boundTo ((endBoundRuns src s).ch ch) src = false := by
  rw [endBoundRuns_ch]
  unfold endGuarded
  split
  · next hb =>
    obtain ⟨sn, hs, -, -⟩ := (boundTo_iff _ _).1 hb
    rw [(endRun_plain .guard hs).context]
    exact boundTo_landed rfl src
  · next hb => exact Bool.eq_false_iff.2 hb

/-- Kinds added to a set. -/
theorem nonempty_union (a b : TripSet) :
    TripSet.nonempty (TripSet.union a b) = (TripSet.nonempty a || TripSet.nonempty b) := by
  simp only [TripSet.nonempty, TripSet.union, Bool.or_assoc, Bool.or_left_comm]

/-- A trip leaves each channel as it was, or without a run in flight (R133). -/
theorem untripped_endBoundRuns {src : SrcNo} {s : State} {ch : ChanNo}
    (h : ∀ j, j ≠ src → Channel.boundTo (s.ch ch) j = true → TripSet.nonempty (s.src j).trips = false) :
    Untripped (endBoundRuns src s) ((endBoundRuns src s).ch ch) := fun j hb => by
  have hne : j ≠ src := fun e => by
    rw [e, endBoundRuns_unbound] at hb
    cases hb
  rw [(endBoundRuns_frame src s).srcEq]
  rw [endBoundRuns_ch] at hb
  unfold endGuarded at hb
  split at hb
  · next hg =>
    obtain ⟨sn, hs, -, -⟩ := (boundTo_iff _ _).1 hg
    rw [(endRun_plain .guard hs).context, boundTo_landed rfl] at hb
    cases hb
  · exact h j hne hb

namespace RunsOk

variable {s : State}

/-- The kinds found end the runs bound to the source where they trip it, and add to its set elsewhere (R133, R134). -/
theorem tripCheck (src : SrcNo) (found : TripSet) (h : RunsOk s) : RunsOk (tripCheck src found s) := by
  set r : Source := { s.src src with trips := TripSet.union (s.src src).trips found }
  have hsame (j : SrcNo) (hj : j ≠ src) : (s.setSrc src r).src j = s.src j := setSrc_src_other s src j r hj.symm
  unfold Machine.tripCheck
  dsimp only
  split
  · next htrip =>
    refine ⟨Kept.fold (fun ch u hu => ?_) _ _ (h.toRecordsOk.congr rfl rfl), fun ch =>
      untripped_endBoundRuns fun j hj hb => ?_⟩
    · unfold endGuarded
      split
      · exact hu.endRun ch _
      · exact hu
    · rw [hsame j hj]
      exact h.untripped ch j hb
  · next hno =>
    refine ⟨h.toRecordsOk.congr rfl rfl, fun ch j hb => ?_⟩
    have hfree : TripSet.nonempty (s.src j).trips = false := h.untripped ch j hb
    by_cases hj : j = src
    · subst hj
      rw [hfree, Bool.not_false, Bool.and_true, Bool.not_eq_true] at hno
      rw [setSrc_src_same, nonempty_union, hfree, hno]
      rfl
    · rw [hsame j hj]
      exact hfree

end RunsOk

end Sys2Proof.StimulusGuard
end

section
/-! SUPPORT. The bounds of the taps, the sources and the outstanding lists: cursors within their windows, histories of at
most four pairs, and lists of at most 32 entries (R21, R23, R125, R126, R131, R148, R157). -/

namespace Sys2Proof.StimulusGuard

open Sys2Proof Sys2Proof.Machine Sys2Proof.Safety Sys2Proof.MeasurementPlan

/-! ### Windows (R21, R125, R150) -/

/-- A word handed to a channel's tap lies in its window (R21, R150). -/
theorem tap_contains_of_classify {s : State} {a : Addr} {ch : ChanNo} (h : s.classify a = .sample ch) :
    Tap.contains (s.tap ch) a = true := by
  unfold State.classify at h
  split at h
  · next off _ => cases harea : areaOf off <;> rw [harea] at h <;> cases h
  · unfold State.windowClass at h
    split at h
    · next hfound =>
      cases h
      exact List.find?_some (p := fun ch => Tap.contains (s.tap ch) a) hfound
    · split at h <;> cases h

/-- A word handed to a source's tap lies in its window (R125, R150). -/
theorem source_contains_of_classify {s : State} {a : Addr} {src : SrcNo} (h : s.classify a = .monitor src) :
    Source.contains (s.src src) a = true := by
  unfold State.classify at h
  split at h
  · next off _ => cases harea : areaOf off <;> rw [harea] at h <;> cases h
  · unfold State.windowClass at h
    split at h
    · cases h
    · split at h
      · next hfound =>
        cases h
        exact List.find?_some (p := fun src => Source.contains (s.src src) a) hfound
      · cases h

/-- The distance of an address from a window's base. -/
theorem addr_sub_toNat (a b : Addr) : (a - b).toNat = (a.toNat + 4294967296 - b.toNat) % 4294967296 := by
  have hb := b.isLt
  rw [BitVec.toNat_sub]
  omega

/-- The distance of an address a little further on. -/
theorem addr_add_sub_toNat (a b : Addr) (n : Nat) (h : (a - b).toNat + n < 4294967296) :
    (a + BitVec.ofNat 32 n - b).toNat = (a - b).toNat + n := by
  have hswap : a + BitVec.ofNat 32 n - b = a - b + BitVec.ofNat 32 n := by
    rw [BitVec.sub_eq_add_neg, BitVec.sub_eq_add_neg, BitVec.add_assoc, BitVec.add_assoc,
      BitVec.add_comm (BitVec.ofNat 32 n)]
  rw [hswap, BitVec.toNat_add, BitVec.toNat_ofNat]
  omega

/-- A sample tap with a word-aligned base, its cursor in its window where that is enabled (R21, R23). -/
def TapFine (t : Tap) : Prop := t.base.toNat % 4 = 0 ∧ TapOk t

/-- A cursor at the base of a window is in it. -/
theorem tapFine_at_base {t : Tap} (hbase : t.base.toNat % 4 = 0) (hcursor : t.cursor = t.base) : TapFine t := by
  refine ⟨hbase, fun hlen => ?_⟩
  have hzero : (t.base - t.base).toNat = 0 := by rw [BitVec.sub_self]; rfl
  rw [hcursor, Tap.contains, hzero, decide_eq_true_eq]
  omega

/-- The word after a word of a window is a word of it (R23). -/
theorem tapFine_advance {t : Tap} {a : Addr} (h : TapFine t) (hin : Tap.contains t a = true)
    (ha : (a - t.base).toNat % 4 = 0) : TapFine (Tap.advance t a) := by
  rw [Tap.contains, decide_eq_true_eq] at hin
  have hlen := t.len.isLt
  by_cases hlast : (a - t.base).toNat = 4 * (t.len.toNat - 1)
  · exact tapFine_at_base h.1 (if_pos hlast)
  · have hnext : (Tap.advance t a).cursor = a + 4 := if_neg hlast
    have hdist : (a + 4 - t.base).toNat = (a - t.base).toNat + 4 := addr_add_sub_toNat a t.base 4 (by omega)
    refine ⟨h.1, fun _ => ?_⟩
    rw [Tap.contains, hnext, decide_eq_true_eq]
    show (a + 4 - t.base).toNat < 4 * t.len.toNat ∧ (a + 4 - t.base).toNat % 4 = 0
    omega

/-- A word of an enabled window at the cursor is word-aligned in it. -/
theorem TapFine.cursor_aligned {t : Tap} (h : TapFine t) (hin : Tap.contains t t.cursor = true) :
    (t.cursor - t.base).toNat % 4 = 0 := by
  rw [Tap.contains, decide_eq_true_eq] at hin
  exact (h.2 (by omega)).2

/-- An aligned word is word-aligned in a window with an aligned base. -/
theorem TapFine.word_aligned {t : Tap} {a : Addr} (h : TapFine t) (ha : a.toNat % 4 = 0) :
    (a - t.base).toNat % 4 = 0 := by
  have hbase := h.1
  rw [addr_sub_toNat]
  omega

/-- A source with its cursor in its window and at most four pairs in its history (R125, R126, R131). -/
def SourceFine (r : Source) : Prop := MonitorOk r ∧ r.history.length ≤ 4

/-- A cursor at the base of a window is in it. -/
theorem monitorOk_at_base {r : Source} (hbase : r.base.toNat % 8 = 0) (hcursor : r.cursor = r.base) : MonitorOk r := by
  refine ⟨hbase, fun hlen => ?_⟩
  have hzero : (r.base - r.base).toNat = 0 := by rw [BitVec.sub_self]; rfl
  rw [hcursor, Source.contains, hzero, decide_eq_true_eq]
  omega

/-- The pair after a pair of a window is a pair of it (R126). -/
theorem monitorOk_nextPair {r : Source} {p : Addr} (hbase : r.base.toNat % 8 = 0) (hin : Source.contains r p = true)
    (hp : (p - r.base).toNat % 8 = 0) : MonitorOk { r with cursor := Source.nextPair r p } := by
  rw [Source.contains, decide_eq_true_eq] at hin
  have hlen := r.len.isLt
  by_cases hlast : (p - r.base).toNat = 8 * (r.len.toNat - 1)
  · exact monitorOk_at_base hbase (if_pos hlast)
  · have hnext : Source.nextPair r p = p + 8 := if_neg hlast
    have hdist : (p + 8 - r.base).toNat = (p - r.base).toNat + 8 := addr_add_sub_toNat p r.base 8 (by omega)
    refine ⟨hbase, fun _ => ?_⟩
    rw [Source.contains, hnext, decide_eq_true_eq]
    show (p + 8 - r.base).toNat < 8 * r.len.toNat ∧ (p + 8 - r.base).toNat % 8 = 0
    omega

/-- The pair that holds a word of a window is a pair of it (R126, R128). -/
theorem pair_of_word {r : Source} {a : Addr} (hbase : r.base.toNat % 8 = 0) (hin : Source.contains r a = true) :
    Source.contains r (dwordOf a) = true ∧ (dwordOf a - r.base).toNat % 8 = 0 := by
  rw [Source.contains, decide_eq_true_eq] at hin ⊢
  have hlen := r.len.isLt
  have ha := a.isLt
  have hb := r.base.isLt
  rw [addr_sub_toNat] at hin ⊢
  rw [dwordOf_toNat]
  omega

/-- A pair added leaves the last four at most (R131). -/
theorem length_addHistory {h : List Pair} (hl : h.length ≤ 4) (p : Pair) : (addHistory h p).length ≤ 4 := by
  unfold addHistory
  rw [List.length_append, List.length_singleton]
  split
  · omega
  · rw [List.length_drop]
    omega

/-! ### A completed pair (R127, R131) -/

/-- A source with its half pair completed: the cursor at the next pair, and the pair in the history. -/
def pairTaken (r : Source) (p : Pair) : Source :=
  { r with half := none, cursor := pairAfter r r.cursor, history := addHistory r.history p }

/-- Setting a source twice is setting it to the second. -/
theorem setSrc_setSrc (s : State) (src : SrcNo) (r q : Source) : (s.setSrc src r).setSrc src q = s.setSrc src q := by
  simp [State.setSrc]

/-- A pair arrival: the half pair is completed, the pair compared, and its current metered (R127, R131, R136). -/
theorem takeCurrent_eq (src : SrcNo) (v i : Word) (s : State) :
    let p : Pair := { voltage := v, current := i }
    let r := pairTaken (s.src src) p
    takeCurrent src v i s = meterPair src i (tripCheck src (Source.found r p) (s.setSrc src r)) := by
  unfold takeCurrent pairArrives
  dsimp only
  rw [setSrc_src_same, setSrc_setSrc]
  rfl

/-! ### Guard clearing (R137) -/

/-- A source after GUARD_CLEAR, by its bit of the mask (R137). -/
theorem clearGuards_src (mask : BitVec 24) (s : State) (src : SrcNo) : (clearGuards mask s).src src =
    if mask.getLsbD src.val = true then Source.cleared (s.src src) else s.src src := by
  fin_cases src <;> rfl

/-! ### The outstanding lists (R148, R157) -/

/-- Marking the waiting read as taken keeps the count of reads, and leaves no more of them waiting. -/
theorem markTaken_bounds (l : List ReadEntry) :
    (markTaken l).length = l.length ∧ ((markTaken l).filter ReadEntry.waits).length ≤ (l.filter ReadEntry.waits).length := by
  induction l with
  | nil => exact ⟨rfl, Nat.le_refl _⟩
  | cons e rest ih =>
    unfold markTaken
    by_cases hw : ReadEntry.waits e = true
    · have htaken : ReadEntry.waits { e with kind := .forwarded true } = false := rfl
      rw [if_pos hw, List.filter_cons_of_pos hw, List.filter_cons_of_neg (by rw [htaken]; exact Bool.noConfusion)]
      exact ⟨rfl, Nat.le_succ _⟩
    · rw [if_neg hw, List.filter_cons_of_neg hw, List.filter_cons_of_neg hw, List.length_cons, ih.1]
      exact ⟨rfl, ih.2⟩

/-- Changing the open write keeps the count of writes. -/
theorem length_updateOpen (f : WriteEntry → WriteEntry) (l : List WriteEntry) : (updateOpen f l).length = l.length := by
  induction l with
  | nil => rfl
  | cons e rest ih =>
    unfold updateOpen
    split
    · rw [List.length_cons, ih, List.length_cons]
    · rfl

/-- The outstanding reads within their list, and at most one of them waiting (R148, R157). -/
def ReadsOk (l : List ReadEntry) : Prop := l.length ≤ 32 ∧ (l.filter ReadEntry.waits).length ≤ 1

/-- A read joins a list with room and without a waiting one (R148). -/
theorem readsOk_add {s : State} (e : ReadEntry) (h : s.readRoom = true) : ReadsOk (s.reads ++ [e]) := by
  obtain ⟨hroom, hnone⟩ := (readRoom_iff s).1 h
  have hwait : s.reads.filter ReadEntry.waits = [] := List.filter_eq_nil_iff.2 fun d hd hw =>
    hnone d hd (by simpa [ReadEntry.waits] using hw)
  refine ⟨by rw [List.length_append, List.length_singleton]; omega, ?_⟩
  rw [List.filter_append, hwait, List.nil_append]
  exact List.length_filter_le _ _

/-- A read that is answered leaves no more behind (R157). -/
theorem ReadsOk.remove {l : List ReadEntry} (id : BusId) (h : ReadsOk l) : ReadsOk (removeRead id l) := by
  have hsub : (removeRead id l).Sublist l := List.eraseP_sublist
  exact ⟨hsub.length_le.trans h.1, (hsub.filter _).length_le.trans h.2⟩

theorem ReadsOk.markTaken {l : List ReadEntry} (h : ReadsOk l) : ReadsOk (markTaken l) := by
  obtain ⟨hlength, hwaits⟩ := markTaken_bounds l
  exact ⟨hlength.trans_le h.1, hwaits.trans h.2⟩

/-- A write that is answered leaves no more behind (R157). -/
theorem length_removeWrite_le (id : BusId) (l : List WriteEntry) : (removeWrite id l).length ≤ l.length :=
  List.eraseP_sublist.length_le

/-- A write joins a list with room (R157). -/
theorem length_addWrite {l : List WriteEntry} (e : WriteEntry) (h : l.length < 32) : (l ++ [e]).length ≤ 32 := by
  rw [List.length_append, List.length_singleton]
  omega

end Sys2Proof.StimulusGuard
end

section
/-! SUPPORT. The bounds of the part over a step: the runs and the records, the board, the outstanding lists, the divider,
the taps and the sources, kept by every operation (R13, R35, R36, R85, R125, R126, R131, R134, R148, R157). -/

namespace Sys2Proof.StimulusGuard

open Sys2Proof Sys2Proof.Machine Sys2Proof.Safety Sys2Proof.MeasurementPlan

/-- The bounds together, each in the form that the operations keep. -/
structure Bounds (s : State) : Prop where
  runs    : RunsOk s
  board   : BoardInv s
  reads   : ReadsOk s.reads
  writes  : s.writes.length ≤ 32
  divider : DividerInv s
  taps    : ∀ ch, TapFine (s.tap ch)
  sources : ∀ src, SourceFine (s.src src)

namespace Bounds

variable {s t : State}

/-- An operation that leaves the bounded blocks alone by definition. -/
theorem rest (h : Bounds s) (htable : t.table = s.table := by rfl) (htarget : t.learnTarget = s.learnTarget := by rfl)
    (hchans : t.chans = s.chans := by rfl) (hsrcs : t.srcs = s.srcs := by rfl) (htaps : t.taps = s.taps := by rfl)
    (hopen : t.boardOpen = s.boardOpen := by rfl) (hboard : t.board = s.board := by rfl)
    (hreads : t.reads = s.reads := by rfl) (hwrites : t.writes = s.writes := by rfl)
    (hdiv : t.timebaseDiv = s.timebaseDiv := by rfl) (hcount : t.divCount = s.divCount := by rfl) : Bounds t where
  runs := h.runs.rest htable htarget hchans fun src => by rw [src_congr hsrcs]
  board := by rw [BoardInv, hopen, hboard]; exact h.board
  reads := hreads ▸ h.reads
  writes := hwrites ▸ h.writes
  divider := by rw [DividerInv, hdiv, hcount]; exact h.divider
  taps ch := by rw [tap_congr htaps]; exact h.taps ch
  sources src := by rw [src_congr hsrcs]; exact h.sources src

/-- An event of a run leaves all but the table and the channels of the bounded blocks. -/
theorem frame (h : Bounds s) (hf : EngineFrame s t) (hruns : RunsOk t) : Bounds t where
  runs := hruns
  board := by rw [hf.eq]; exact h.board
  reads := by rw [hf.eq]; exact h.reads
  writes := by rw [hf.eq]; exact h.writes
  divider := by rw [hf.eq]; exact h.divider
  taps ch := by rw [hf.tapEq]; exact h.taps ch
  sources src := by rw [hf.srcEq]; exact h.sources src

theorem beginWrite (h : Bounds s) : Bounds (beginWrite s) := by
  rw [VerdictRing.beginWrite_eq]
  exact h.rest

theorem setTap {ch : ChanNo} {tap : Tap} (h : Bounds s) (htap : TapFine tap) : Bounds (s.setTap ch tap) where
  runs := h.runs.rest
  board := h.board
  reads := h.reads
  writes := h.writes
  divider := h.divider
  taps j := by
    rw [setTap_tap]
    split
    · exact htap
    · exact h.taps j
  sources := h.sources

/-- A source set with the trips it has. -/
theorem setSrc {src : SrcNo} {r : Source} (h : Bounds s) (hr : SourceFine r) (ht : r.trips = (s.src src).trips) :
    Bounds (s.setSrc src r) where
  runs := h.runs.rest rfl rfl rfl fun j => by
    rw [setSrc_src]
    split
    · next e => rw [ht, e]
    · rfl
  board := h.board
  reads := h.reads
  writes := h.writes
  divider := h.divider
  taps := h.taps
  sources j := by
    rw [setSrc_src]
    split
    · exact hr
    · exact h.sources j

/-- The outstanding reads changed, and nothing else that is bounded. -/
theorem setReads {l : List ReadEntry} (h : Bounds s) (hl : ReadsOk l) : Bounds { s with reads := l } :=
  { runs := h.runs.rest, board := h.board, reads := hl, writes := h.writes, divider := h.divider, taps := h.taps,
    sources := h.sources }

/-- The outstanding writes changed, and nothing else that is bounded. -/
theorem setWrites {l : List WriteEntry} (h : Bounds s) (hl : l.length ≤ 32) : Bounds { s with writes := l } :=
  { runs := h.runs.rest, board := h.board, reads := h.reads, writes := hl, divider := h.divider, taps := h.taps,
    sources := h.sources }

/-! ### Words (R21, R22, R36, R89, R125) -/

theorem acceptIf {c : Bool} {f : State → State} (h : Bounds s) (hf : c = true → Bounds (f s)) :
    Bounds (acceptIf c f s) := by
  unfold Machine.acceptIf
  split
  · next hc => exact hf hc
  · exact h.rest

/-- TIMEBASE_DIV is taken within its range, with its count at 0 (R36). -/
theorem takeTimebaseDiv (v : Word) (h : Bounds s) : Bounds (takeTimebaseDiv v s) := by
  refine h.acceptIf fun hv => ?_
  rw [Bool.and_eq_true, decide_eq_true_eq, decide_eq_true_eq] at hv
  have hdiv : (v.setWidth 10).toNat = v.toNat := by
    rw [BitVec.toNat_setWidth]
    omega
  refine { runs := h.runs.rest, board := h.board, reads := h.reads, writes := h.writes, divider := ?_, taps := h.taps,
           sources := h.sources }
  show 1 ≤ (v.setWidth 10).toNat ∧ (v.setWidth 10).toNat ≤ 1023 ∧ 0 < (v.setWidth 10).toNat
  omega

/-- LEARN_TARGET is taken as 1 or more (R89). -/
theorem takeLearnTarget (v : Word) (h : Bounds s) : Bounds (takeLearnTarget v s) := by
  rw [takeLearnTarget_eq]
  split
  · next hv =>
    obtain ⟨hlow, hhigh, -, -⟩ := hv
    have htarget : (v.setWidth 4).toNat = v.toNat := by
      rw [BitVec.toNat_setWidth]
      omega
    exact { runs := { canonical := h.runs.canonical, target := htarget.symm ▸ hlow, records := h.runs.records,
                      untripped := h.runs.untripped }
            board := h.board, reads := h.reads, writes := h.writes, divider := h.divider, taps := h.taps,
            sources := h.sources }
  · exact h.rest

theorem ringEnable (h : Bounds s) : Bounds (ringEnable s) := by
  unfold Machine.ringEnable
  split
  · split
    · exact beginWrite (s := { s with writer := { s.writer with state := .ready } }) h.rest
    · exact h.rest
  · exact h

theorem ringDisable (h : Bounds s) : Bounds (ringDisable s) := by
  unfold Machine.ringDisable
  split
  · exact h
  all_goals exact h.rest

theorem ringConfig (f : Writer → Writer) (h : Bounds s) : Bounds (ringConfig f s) := by
  unfold Machine.ringConfig
  split <;> exact h.rest

/-- A window word sets its base aligned, and returns the cursor to the base. -/
theorem takeConfigWord (w : ConfigWord) (v : Word) (h : Bounds s) : Bounds (takeConfigWord w v s) := by
  unfold Machine.takeConfigWord
  cases w with
  | timebaseDiv => exact h.takeTimebaseDiv v
  | learnTarget => exact h.takeLearnTarget v
  | ringBase => exact h.ringConfig _
  | ringSize => exact h.ringConfig _
  | ringProdAddr => exact h.ringConfig _
  | ringCtrl =>
    show Bounds (takeRingCtrl v s)
    unfold takeRingCtrl
    split
    · exact h.ringEnable
    · exact h.ringDisable
  | bandT i => fin_cases i <;> exact h.rest
  | rangeShift r => exact h.acceptIf fun _ => h.rest
  | sampleBase ch => exact h.acceptIf fun _ => h.setTap (tapFine_at_base (Kept.wordOf_aligned v) rfl)
  | sampleLen ch => exact h.acceptIf fun _ => h.setTap (tapFine_at_base (h.taps ch).1 rfl)
  | monBase src => exact h.setSrc ⟨monitorOk_at_base (Kept.dwordOf_aligned v) rfl, Nat.zero_le _⟩ rfl
  | monLen src => exact h.setSrc ⟨monitorOk_at_base (h.sources src).1.1 rfl, Nat.zero_le _⟩ rfl
  | iLimit src => exact h.setSrc (h.sources src) rfl
  | vLimit src => exact h.setSrc (h.sources src) rfl
  | pLimit src => exact h.setSrc (h.sources src) rfl
  | period src => exact h.setSrc (h.sources src) rfl
  | guardCtrl src => exact h.setSrc (h.sources src) rfl
  | _ => exact h.rest

theorem takeConsumer (v : Word) (h : Bounds s) : Bounds (takeConsumer v s) := by
  unfold Machine.takeConsumer
  dsimp only
  split
  · exact beginWrite (s := { s with writer := { s.writer with consumer := v.extractLsb' 0 16 } }) h.rest
  · exact h.rest

theorem takeTemp (v : Word) (h : Bounds s) : Bounds (takeTemp v s) := by
  unfold Machine.takeTemp
  dsimp only
  split <;> exact h.rest

/-- A commit clears the entry's record (R9, R13). -/
theorem commitEntry (n : Nat) (v : Word) (h : Bounds s) : Bounds (commitEntry n v s) := by
  have hset : Bounds (s.setEntry n (Entry.commit (s.entry n) v)) :=
    h.frame (.setEntry _ _ _) (h.runs.setEntry recordOk_cleared)
  unfold Machine.commitEntry
  dsimp only
  split
  · exact hset
  · exact hset.rest

/-! ### Device commands (R85 to R87, R100, R137, R171) -/

/-- The completion of a plan reset (R63, R145, R173). -/
theorem completed (h : Bounds s) : Bounds (completePlanReset s) := by
  have hdone := completePlanReset_done h.runs.canonical
  refine { runs := h.runs.completed, board := ⟨nofun, fun hne => absurd rfl hne⟩, reads := h.reads, writes := h.writes,
           divider := h.divider, taps := fun ch => ?_, sources := fun src => ?_ }
  · rw [hdone.cursors ch]
    exact tapFine_at_base (h.taps ch).1 rfl
  · rw [hdone.sources src]
    exact ⟨monitorOk_at_base (h.sources src).1.1 rfl, Nat.zero_le _⟩

theorem deviceCommand {f : State → State} (h : Bounds s) (hf : Bounds (f s)) : Bounds (deviceCommand f s) := by
  unfold Machine.deviceCommand
  split
  · exact h.rest
  · exact hf

/-- The board changed, and nothing else that is bounded. -/
theorem setBoard {isOpen : Bool} {number : BitVec 16} (h : Bounds s) (hb : isOpen = true ↔ number ≠ noBoard) :
    Bounds (setDevResult .done { s with boardOpen := isOpen, board := number }) :=
  { runs := h.runs.rest, board := hb, reads := h.reads, writes := h.writes, divider := h.divider, taps := h.taps,
    sources := h.sources }

/-- An opened board has a number other than that of no board (R85, R86). -/
theorem devBoardOpen (arg : BitVec 24) (h : Bounds s) : Bounds (devBoardOpen arg s) := by
  refine h.deviceCommand ?_
  dsimp only
  split
  · next hdone =>
    have harg : arg.toNat < 65535 := by
      by_contra hge
      rw [BoardLearning.boardOpenResult_of_badArg (by omega)] at hdone
      cases hdone
    refine h.setBoard ⟨fun _ hno => ?_, fun _ => rfl⟩
    have hnumber : (arg.setWidth 16).toNat = 65535 := congrArg BitVec.toNat hno
    rw [BitVec.toNat_setWidth] at hnumber
    omega
  · exact h.rest

theorem devBoardClose (h : Bounds s) : Bounds (devBoardClose s) := by
  refine h.deviceCommand ?_
  dsimp only
  split
  · exact h.setBoard ⟨nofun, fun hne => absurd rfl hne⟩
  · exact h.rest

/-- LEARN_CLEAR clears records (R100). -/
theorem devLearnClear (arg : BitVec 24) (h : Bounds s) : Bounds (devLearnClear arg s) := by
  refine h.deviceCommand ?_
  split
  · exact rest (s := s.setEntry arg.toNat (Entry.learnCleared (s.entry arg.toNat)))
      (h.frame (.setEntry _ _ _) (h.runs.setEntry recordOk_cleared))
  · split
    · exact rest (s := { s with table := Table.mapAll Entry.learnCleared s.table })
        (h.frame ⟨rfl⟩ (h.runs.mapAll rfl fun _ _ => recordOk_cleared))
    · exact h.rest

/-- GUARD_CLEAR empties trip sets and histories (R137). -/
theorem clearGuards (mask : BitVec 24) (h : Bounds s) : Bounds (clearGuards mask s) := by
  refine { runs := ⟨h.runs.toRecordsOk.congr rfl rfl, fun ch src hb => ?_⟩, board := h.board, reads := h.reads,
           writes := h.writes, divider := h.divider, taps := h.taps, sources := fun src => ?_ }
  · rw [clearGuards_src]
    split
    · rfl
    · exact h.runs.untripped ch src hb
  · rw [clearGuards_src]
    split
    · exact ⟨(h.sources src).1, Nat.zero_le _⟩
    · exact h.sources src

/-- A device command by its code (R169). -/
theorem takeDevCmd (v : Word) (h : Bounds s) : Bounds (takeDevCmd v s) := by
  unfold Machine.takeDevCmd
  split
  · refine h.deviceCommand ?_
    split
    · exact h.rest
    · exact h.completed
  · exact h.devBoardOpen _
  · exact h.devBoardClose
  · exact h.devLearnClear _
  · exact h.deviceCommand (h.clearGuards _).rest
  · exact h.deviceCommand h.rest

/-! ### Taps (R23, R25, R127, R128, R131) -/

/-- A full word at a cursor (R23, R24). -/
theorem takeSample (ch : ChanNo) (w : Word) (h : Bounds s) (hc : s.classify (s.tap ch).cursor = .sample ch) :
    Bounds (takeSample ch w s) := by
  have hin := tap_contains_of_classify hc
  have hset := h.setTap (ch := ch) (tapFine_advance (h.taps ch) hin ((h.taps ch).cursor_aligned hin))
  exact hset.frame (engineSample_frame ch w _) (runsOk_runKept.engineSample ch w _ hset.runs)

/-- A stray of a sample window (R25). -/
theorem takeSampleStray (ch : ChanNo) (a : Addr) (h : Bounds s) (hc : s.classify a = .sample ch)
    (ha : a.toNat % 4 = 0) : Bounds (takeSampleStray ch a s) := by
  have hset := h.setTap (ch := ch)
    (tapFine_advance (h.taps ch) (tap_contains_of_classify hc) ((h.taps ch).word_aligned ha))
  exact hset.frame (engineStray_frame ch _) (runsOk_runKept.engineStray ch _ hset.runs)

/-- A stray of a monitor window (R128). -/
theorem takeMonitorStray (src : SrcNo) (a : Addr) (h : Bounds s) (hc : s.classify a = .monitor src) :
    Bounds (takeMonitorStray src a s) := by
  obtain ⟨hmon, hhist⟩ := h.sources src
  obtain ⟨hin, hpair⟩ := pair_of_word hmon.1 (source_contains_of_classify hc)
  exact rest (s := s.setSrc src { s.src src with
      half := none, cursor := Source.nextPair (s.src src) (dwordOf a), seqInd := true })
    (h.setSrc ⟨monitorOk_nextPair hmon.1 hin hpair, hhist⟩ rfl)

/-- The kinds found are latched in the source's set, and nothing else of a source changes (R133, R134). -/
theorem tripCheck (src : SrcNo) (found : TripSet) (h : Bounds s) : Bounds (tripCheck src found s) := by
  have hruns := h.runs.tripCheck src found
  have hlatch (t : State) (hf : EngineFrame (s.setSrc src { s.src src with
      trips := TripSet.union (s.src src).trips found }) t) (ht : RunsOk t) : Bounds t :=
    { runs := ht
      board := by rw [hf.eq]; exact h.board
      reads := by rw [hf.eq]; exact h.reads
      writes := by rw [hf.eq]; exact h.writes
      divider := by rw [hf.eq]; exact h.divider
      taps := fun ch => by rw [hf.tapEq]; exact h.taps ch
      sources := fun j => by
        rw [hf.srcEq, setSrc_src]
        split
        · exact h.sources src
        · exact h.sources j }
  refine hlatch _ ?_ hruns
  unfold Machine.tripCheck
  dsimp only
  split
  · exact endBoundRuns_frame src _
  · exact .refl _

/-- A current word completes a pair (R127, R131, R133, R135). -/
theorem takeCurrent (src : SrcNo) (v i : Word) (h : Bounds s) (hc : s.classify ((s.src src).cursor + 4) = .monitor src) :
    Bounds (takeCurrent src v i s) := by
  obtain ⟨hmon, hhist⟩ := h.sources src
  have hlen : 1 ≤ (s.src src).len.toNat := by
    have hne := len_of_classify hc
    by_contra hzero
    exact hne (BitVec.eq_of_toNat_eq (show (s.src src).len.toNat = 0 by omega))
  obtain ⟨hin, hpair⟩ := hmon.2 hlen
  have hadded := h.setSrc (src := src) (r := pairTaken (s.src src) { voltage := v, current := i })
    ⟨monitorOk_nextPair hmon.1 hin hpair, length_addHistory hhist _⟩ rfl
  have htripped := hadded.tripCheck src
    (Source.found (pairTaken (s.src src) { voltage := v, current := i }) { voltage := v, current := i })
  rw [takeCurrent_eq]
  exact htripped.frame (meterPair_frame src i _) (runsOk_runKept.meterPair src i _ htripped.runs)

/-! ### The writer and the path (R115, R148, R157, R160) -/

theorem sendWriterData (h : Bounds s) : Bounds (sendWriterData s) := by
  unfold Machine.sendWriterData
  split
  · split
    · exact h.rest
    all_goals exact h
  · exact h

/-- Publication releases the head (R115). -/
theorem publish (h : Bounds s) : Bounds (publish s) := by
  have hruns := h.runs.publish
  unfold Machine.publish at hruns ⊢
  split
  · exact h
  · next head rest hq =>
    rw [hq] at hruns
    have hleft : Bounds (VerdictRing.advanced s rest) := h.rest
    refine Bounds.beginWrite (s := Machine.release head (VerdictRing.advanced s rest)) ?_
    rcases release_frame head (VerdictRing.advanced s rest) with hf | ⟨u, hf, hu⟩
    · exact hleft.frame hf (hleft.runs.release head)
    · have hru := hleft.runs.release head
      rw [hu] at hru ⊢
      exact Bounds.rest (s := u) (hleft.frame hf hru.rest)

theorem liveReadArrives (o : Offer) (h : Bounds s) (hroom : s.readRoom = true) : Bounds (liveReadArrives o s) := by
  have hadd (e : ReadEntry) : Bounds { s with reads := s.reads ++ [e] } := h.setReads (readsOk_add e hroom)
  unfold Machine.liveReadArrives
  dsimp only
  split
  · exact rest (s := addRead o (.live (s.liveBeats o.burst)) s) (hadd _)
  · exact hadd _

theorem takeReadAddr (h : Bounds s) : Bounds (takeReadAddr s) := by
  unfold Machine.takeReadAddr
  split
  · exact rest (s := { s with reads := markTaken s.reads }) (h.setReads h.reads.markTaken)
  · exact h

theorem returnReadBeat (id : BusId) (d : Beat) (r : Resp) (last : Bool) (h : Bounds s) :
    Bounds (returnReadBeat id d r last s) := by
  have hset : Bounds { s with reads := if last then removeRead id s.reads else s.reads } := by
    refine h.setReads ?_
    split
    · exact h.reads.remove id
    · exact h.reads
  exact hset.rest

theorem updateOpen (f : WriteEntry → WriteEntry) (h : Bounds s) : Bounds { s with writes := updateOpen f s.writes } :=
  h.setWrites ((length_updateOpen f s.writes).trans_le h.writes)

theorem liveBeatArrives (e : WriteEntry) (m : BitVec 8) (h : Bounds s) : Bounds (liveBeatArrives e m s) := by
  unfold Machine.liveBeatArrives
  split
  · exact (h.updateOpen _).rest
  · exact h.updateOpen _

end Bounds

/-- The bounds hold at reset (R18, R146, R157). -/
theorem bounds_reset : Bounds State.reset where
  runs := (runsOk_iff _).2 ⟨rfl, learnInv_reset, tripInv_reset⟩
  board := boardInv_reset
  reads := ⟨listsInv_reset.1, listsInv_reset.2.2⟩
  writes := listsInv_reset.2.1
  divider := dividerInv_reset
  taps := cursorInv_reset.taps
  sources src := ⟨cursorInv_reset.monitors src, historyInv_reset src⟩

/-- Every operation of the part keeps the bounds. -/
theorem bounds_kept : Kept Bounds where
  pending _ _ h := h.rest
  reset _ _ := bounds_reset.rest
  released _ s h :=
    { runs := h.runs.rest, board := h.board, reads := h.reads, writes := h.writes
      divider := ⟨h.divider.1, h.divider.2.1, h.divider.1⟩, taps := h.taps, sources := h.sources }
  counted _ h hcount :=
    { runs := h.runs.rest, board := h.board, reads := h.reads, writes := h.writes
      divider := ⟨h.divider.1, h.divider.2.1, hcount⟩, taps := h.taps, sources := h.sources }
  increment _ h :=
    { runs := h.runs.rest, board := h.board, reads := h.reads, writes := h.writes
      divider := ⟨h.divider.1, h.divider.2.1, h.divider.1⟩, taps := h.taps, sources := h.sources }
  expiry ch s h := h.frame (takeExpiry_frame ch s) (runsOk_runKept.expiry ch s h.runs)
  emit _ _ h := h.rest
  misuse _ h := h.rest
  edit n _ _ _ _ _ h := h.frame (.setEntry _ _ _) (h.runs.setEntry (h.runs.records n))
  commit n v _ _ h := h.commitEntry n v
  config w v _ h := h.takeConfigWord w v
  channel ch v s h := h.frame (channelCommand_frame ch v s) (runsOk_runKept.channel ch v s h.runs)
  device v _ h := h.takeDevCmd v
  consumer v _ h := h.takeConsumer v
  temp v _ h := h.takeTemp v
  inspect _ _ h := h.rest
  sample ch w _ hc h := h.takeSample ch w hc
  stray ch a _ hc ha h := h.takeSampleStray ch a hc ha
  voltage src _ _ _ h := h.setSrc (h.sources src) rfl
  current src v i _ hc _ h := h.takeCurrent src v i hc
  monStray src a _ hc _ h := h.takeMonitorStray src a hc
  charge src i ch s h := h.frame (meterRun_frame src i ch s) (runsOk_runKept.meterRun src i ch s h.runs)
  liveRead o _ hroom h := h.liveReadArrives o hroom
  heldRead _ _ hroom h := h.setReads (readsOk_add _ hroom)
  forwarded _ _ hroom h := h.setReads (readsOk_add _ hroom)
  readAddr _ h := h.takeReadAddr
  readBeat id d r last _ h := h.returnReadBeat id d r last
  partBeats e s h := (h.setReads (h.reads.remove e.id)).rest
  liveWrite _ _ hroom h := h.setWrites (length_addWrite _ hroom)
  liveBeat e m _ h := h.liveBeatArrives e m
  response id _ _ s h := (h.setWrites ((length_removeWrite_le id s.writes).trans h.writes)).rest
  grantFwd o s hroom h :=
    (h.setWrites (length_addWrite { id := o.id, burst := o.burst, kind := .forwarded, arrived := 0 } hroom)).rest
  grantWtr f s _ h :=
    Bounds.sendWriterData (s := emit (.downWriteAddr Config.reservedId (Flight.burst f s.freeCount))
      { s with lastGrant := .writer, freeCount := s.freeCount + 1,
               writer := { s.writer with flight := some { f with phase := .data s.openForwarded } } }) h.rest
  beat f _ _ h := h.updateOpen f
  dataDone s h :=
    Bounds.sendWriterData (s := { s with
      writer := { s.writer with flight := s.writer.flight.map Flight.oneFewerAhead } }) h.rest
  begin _ h := h.beginWrite
  issue _ _ _ h := h.rest
  publish _ _ _ h := h.publish
  fault _ _ _ _ _ h := h.rest
  completed _ h := h.completed

end Sys2Proof.StimulusGuard
end

section
/-! SUPPORT. RESET_N: every command but the two of the reset line acts only while it is high and leaves it so
(R165, R166, R181; log 17), and the bounds with the reset line over a step. -/

namespace Sys2Proof.StimulusGuard

open Sys2Proof Sys2Proof.Machine Sys2Proof.Safety Sys2Proof.MeasurementPlan

/-! ### Operations that leave the reset line -/

theorem EngineFrame_resetN {s t : State} (h : EngineFrame s t) : t.resetN = s.resetN := by rw [h.eq]

/-- An operation under a condition. -/
theorem ite_resetN {c : Prop} [Decidable c] {s t u : State} (ht : t.resetN = s.resetN) (hu : u.resetN = s.resetN) :
    (if c then t else u).resetN = s.resetN := by
  split
  · exact ht
  · exact hu

theorem beginWrite_resetN (s : State) : (beginWrite s).resetN = s.resetN := EngineFrame_resetN (beginWrite_frame s)

theorem countUp_resetN (s : State) : (countUp s).resetN = s.resetN := by
  rw [countUp_eq]
  dsimp only
  exact EngineFrame_resetN (takeDueExpiries_frame s)

/-- A cycle of CLK leaves the reset line. -/
theorem clkCycle_resetN {s : State} (h : s.resetN = true) : (clkCycle s).resetN = s.resetN := by
  rw [clkCycle_up h]
  split
  · rw [EngineFrame_resetN (takeDueExpiries_frame _), countUp_resetN]
  · dsimp only
    exact EngineFrame_resetN (takeDueExpiries_frame s)

theorem ringEnable_resetN (s : State) : (ringEnable s).resetN = s.resetN :=
  ite_resetN (ite_resetN (beginWrite_resetN _) rfl) rfl

theorem ringDisable_resetN (s : State) : (ringDisable s).resetN = s.resetN := by
  unfold ringDisable
  split <;> rfl

theorem takeConfigWord_resetN (w : ConfigWord) (v : Word) (s : State) : (takeConfigWord w v s).resetN = s.resetN := by
  cases w with
  | timebaseDiv => exact ite_resetN rfl rfl
  | learnTarget => exact ite_resetN rfl rfl
  | rangeShift r => exact ite_resetN rfl rfl
  | sampleBase ch => exact ite_resetN rfl rfl
  | sampleLen ch => exact ite_resetN rfl rfl
  | ringBase => exact ite_resetN rfl rfl
  | ringSize => exact ite_resetN rfl rfl
  | ringProdAddr => exact ite_resetN rfl rfl
  | ringCtrl => exact ite_resetN (ringEnable_resetN s) (ringDisable_resetN s)
  | bandT i => fin_cases i <;> rfl
  | _ => rfl

theorem takeDevCmd_resetN (v : Word) (s : State) : (takeDevCmd v s).resetN = s.resetN := by
  unfold takeDevCmd
  split
  · exact ite_resetN rfl (ite_resetN rfl rfl)
  · exact ite_resetN rfl (ite_resetN rfl rfl)
  · exact ite_resetN rfl (ite_resetN rfl rfl)
  · exact ite_resetN rfl (ite_resetN rfl (ite_resetN rfl rfl))
  · exact ite_resetN rfl rfl
  · exact ite_resetN rfl rfl

theorem takeCommandWord_resetN (w : CommandWord) (v : Word) (s : State) :
    (takeCommandWord w v s).resetN = s.resetN := by
  cases w with
  | chCmd ch => exact EngineFrame_resetN (channelCommand_frame ch v s)
  | devCmd => exact takeDevCmd_resetN v s
  | consumer => exact ite_resetN (beginWrite_resetN _) rfl
  | temp => exact ite_resetN rfl rfl
  | inspect => rfl

theorem takeStepWord_resetN (off : Nat) (v : Word) (s : State) : (takeStepWord off v s).resetN = s.resetN :=
  ite_resetN rfl (ite_resetN (ite_resetN rfl rfl) rfl)

theorem takeSample_resetN (ch : ChanNo) (w : Word) (s : State) : (takeSample ch w s).resetN = s.resetN :=
  EngineFrame_resetN (s := s.setTap ch _) (engineSample_frame ch w _)

theorem takeSampleStray_resetN (ch : ChanNo) (a : Addr) (s : State) : (takeSampleStray ch a s).resetN = s.resetN :=
  EngineFrame_resetN (s := s.setTap ch _) (engineStray_frame ch _)

theorem tripCheck_resetN (src : SrcNo) (found : TripSet) (s : State) : (tripCheck src found s).resetN = s.resetN := by
  unfold tripCheck
  refine ite_resetN ?_ rfl
  rw [EngineFrame_resetN (endBoundRuns_frame src _)]
  rfl

theorem takeCurrent_resetN (src : SrcNo) (v i : Word) (s : State) : (takeCurrent src v i s).resetN = s.resetN := by
  rw [takeCurrent_eq, EngineFrame_resetN (meterPair_frame src i _), tripCheck_resetN]
  rfl

theorem publish_resetN (s : State) : (publish s).resetN = s.resetN := by
  unfold publish
  split
  · rfl
  · next head rest _ =>
    rw [beginWrite_resetN]
    change (release head (VerdictRing.advanced s rest)).resetN = (VerdictRing.advanced s rest).resetN
    rcases release_frame head (VerdictRing.advanced s rest) with hf | ⟨u, hf, hu⟩
    · exact EngineFrame_resetN hf
    · rw [hu]
      exact (EngineFrame_resetN hf :)

theorem sendWriterData_resetN (s : State) : (sendWriterData s).resetN = s.resetN := by
  unfold sendWriterData
  split
  · split <;> rfl
  · rfl

theorem apertureWord_resetN (strb : BitVec 4) {f : State → State} {s : State} (h : (f s).resetN = s.resetN) :
    (apertureWord strb f s).resetN = s.resetN := ite_resetN rfl (ite_resetN h rfl)

theorem handWord_resetN (a : Addr) (strb : BitVec 4) (v : Word) (s : State) :
    (handWord a strb v s).resetN = s.resetN := by
  unfold handWord
  split
  · rfl
  · exact apertureWord_resetN _ (takeStepWord_resetN _ v s)
  · refine apertureWord_resetN _ ?_
    unfold takeConfigOffset
    split
    · exact takeConfigWord_resetN _ v s
    · rfl
  · refine apertureWord_resetN _ ?_
    unfold takeCommandOffset
    split
    · exact takeCommandWord_resetN _ v s
    · rfl
  · rfl
  · exact ite_resetN rfl (ite_resetN (takeSample_resetN _ v s) (takeSampleStray_resetN _ a s))
  · refine ite_resetN rfl ?_
    split
    · rfl
    · exact takeCurrent_resetN _ _ v s
    · rfl
  · rfl

theorem forwardBeat_resetN (e : WriteEntry) (d : Beat) (m : BitVec 8) (s : State) :
    (forwardBeat e d m s).resetN = s.resetN := by
  unfold forwardBeat handBeat
  dsimp only
  rw [handWord_resetN, handWord_resetN]
  exact ite_resetN (sendWriterData_resetN _) rfl

/-! ### Commands and the reset line -/

/-- Whether a command is one of the reset line (R165, R166). -/
def ofResetLine : Instr → Bool
  | .hardwareReset => true
  | .resetNRelease _ => true
  | _ => false

/-- A command that acts while the part is up, and leaves the reset line. -/
def ActsWhileUp (c : Instr) : Prop :=
  ∃ f : State → State, (∀ s, exec c s = .next (whileUp f s)) ∧ ∀ s, (f s).resetN = s.resetN

/-- A command that does nothing. -/
theorem actsWhileUp_of_nothing {c : Instr} (h : ∀ s, exec c s = .next s) : ActsWhileUp c :=
  ⟨id, fun s => (h s).trans (congrArg _ (ite_self s).symm), fun _ => rfl⟩

/-- Every command but those of the reset line acts only while the part is up (R165; log 17). -/
theorem actsWhileUp {c : Instr} (hc : ofResetLine c = false) : ActsWhileUp c := by
  cases c with
  | hardwareReset => cases hc
  | resetNRelease straps => cases hc
  | timebaseIncrement => exact ⟨_, fun _ => rfl, countUp_resetN⟩
  | deadlineExpiry ch => exact ⟨_, fun _ => rfl, fun s => EngineFrame_resetN (takeExpiry_frame ch s)⟩
  | stepWordWrite n k v => exact ⟨_, fun _ => rfl, fun _ => rfl⟩
  | commit n v => exact ⟨_, fun _ => rfl, fun _ => ite_resetN rfl rfl⟩
  | entry8191Write k v => exact ⟨_, fun _ => rfl, fun _ => rfl⟩
  | partialStrobeWord off m v => exact ⟨_, fun _ => rfl, fun _ => ite_resetN rfl rfl⟩
  | unassignedApertureWrite off v => exact ⟨_, fun _ => rfl, fun _ => ite_resetN rfl rfl⟩
  | timebaseDivWrite v => exact ⟨_, fun _ => rfl, fun _ => takeConfigWord_resetN .timebaseDiv v _⟩
  | learnTargetWrite v => exact ⟨_, fun _ => rfl, fun _ => takeConfigWord_resetN .learnTarget v _⟩
  | noticeEnableWrite v => exact ⟨_, fun _ => rfl, fun _ => takeConfigWord_resetN .noticeEnable v _⟩
  | ringLevelWrite v => exact ⟨_, fun _ => rfl, fun _ => takeConfigWord_resetN .ringLevel v _⟩
  | ringBaseWrite v => exact ⟨_, fun _ => rfl, fun _ => takeConfigWord_resetN .ringBase v _⟩
  | ringSizeWrite v => exact ⟨_, fun _ => rfl, fun _ => takeConfigWord_resetN .ringSize v _⟩
  | ringProdAddrWrite v => exact ⟨_, fun _ => rfl, fun _ => takeConfigWord_resetN .ringProdAddr v _⟩
  | bandTWrite i v => exact ⟨_, fun _ => rfl, fun _ => takeConfigWord_resetN (.bandT i) v _⟩
  | bandHystWrite v => exact ⟨_, fun _ => rfl, fun _ => takeConfigWord_resetN .bandHyst v _⟩
  | rangeShiftWrite r v => exact ⟨_, fun _ => rfl, fun _ => takeConfigWord_resetN (.rangeShift r) v _⟩
  | compWrite k b v => exact ⟨_, fun _ => rfl, fun _ => takeConfigWord_resetN (.comp k b) v _⟩
  | sampleBaseWrite ch v => exact ⟨_, fun _ => rfl, fun _ => takeConfigWord_resetN (.sampleBase ch) v _⟩
  | sampleLenWrite ch v => exact ⟨_, fun _ => rfl, fun _ => takeConfigWord_resetN (.sampleLen ch) v _⟩
  | monBaseWrite src v => exact ⟨_, fun _ => rfl, fun _ => takeConfigWord_resetN (.monBase src) v _⟩
  | monLenWrite src v => exact ⟨_, fun _ => rfl, fun _ => takeConfigWord_resetN (.monLen src) v _⟩
  | iLimitWrite src v => exact ⟨_, fun _ => rfl, fun _ => takeConfigWord_resetN (.iLimit src) v _⟩
  | vLimitWrite src v => exact ⟨_, fun _ => rfl, fun _ => takeConfigWord_resetN (.vLimit src) v _⟩
  | pLimitWrite src v => exact ⟨_, fun _ => rfl, fun _ => takeConfigWord_resetN (.pLimit src) v _⟩
  | periodWrite src v => exact ⟨_, fun _ => rfl, fun _ => takeConfigWord_resetN (.period src) v _⟩
  | guardCtrlWrite src v => exact ⟨_, fun _ => rfl, fun _ => takeConfigWord_resetN (.guardCtrl src) v _⟩
  | moveBaseWrite v => exact ⟨_, fun _ => rfl, fun _ => takeConfigWord_resetN .moveBase v _⟩
  | moveLenWrite v => exact ⟨_, fun _ => rfl, fun _ => takeConfigWord_resetN .moveLen v _⟩
  | motionIdWrite v => exact ⟨_, fun _ => rfl, fun _ => takeConfigWord_resetN .motionId v _⟩
  | motionIdMaskWrite v => exact ⟨_, fun _ => rfl, fun _ => takeConfigWord_resetN .motionIdMask v _⟩
  | holdPatternWrite v => exact ⟨_, fun _ => rfl, fun _ => takeConfigWord_resetN .holdPattern v _⟩
  | ringEnable high => exact ⟨_, fun _ => rfl, fun _ => ringEnable_resetN _⟩
  | ringDisable high => exact ⟨_, fun _ => rfl, fun _ => ringDisable_resetN _⟩
  | arm ch arg => exact ⟨_, fun _ => rfl, fun _ => (EngineFrame_resetN (channelArm_frame ch arg _)).trans rfl⟩
  | abort ch arg => exact ⟨_, fun _ => rfl, fun _ => (EngineFrame_resetN (channelAbort_frame ch _)).trans rfl⟩
  | chCmdUnknown ch op arg =>
    cases hop : unknownChOp op with
    | true => exact ⟨_, fun _ => congrArg Host.Outcome.next (if_pos hop), fun _ => rfl⟩
    | false => exact actsWhileUp_of_nothing fun _ => congrArg Host.Outcome.next (if_neg (Bool.eq_false_iff.1 hop))
  | planReset arg => exact ⟨_, fun _ => rfl, fun _ => ite_resetN rfl (ite_resetN rfl rfl)⟩
  | boardOpen arg => exact ⟨_, fun _ => rfl, fun _ => ite_resetN rfl (ite_resetN rfl rfl)⟩
  | boardClose arg => exact ⟨_, fun _ => rfl, fun _ => ite_resetN rfl (ite_resetN rfl rfl)⟩
  | learnClear arg => exact ⟨_, fun _ => rfl, fun _ => ite_resetN rfl (ite_resetN rfl (ite_resetN rfl rfl))⟩
  | guardClear arg => exact ⟨_, fun _ => rfl, fun _ => ite_resetN rfl rfl⟩
  | devCmdUnknown op arg =>
    cases hop : unknownDevOp op with
    | true => exact ⟨_, fun _ => congrArg Host.Outcome.next (if_pos hop), fun _ => ite_resetN rfl rfl⟩
    | false => exact actsWhileUp_of_nothing fun _ => congrArg Host.Outcome.next (if_neg (Bool.eq_false_iff.1 hop))
  | planResetCompletion resp issued => exact ⟨_, fun _ => rfl, fun _ => ite_resetN rfl rfl⟩
  | consumerWrite v => exact ⟨_, fun _ => rfl, fun _ => takeCommandWord_resetN .consumer v _⟩
  | tempWrite v => exact ⟨_, fun _ => rfl, fun _ => takeCommandWord_resetN .temp v _⟩
  | inspectWrite v => exact ⟨_, fun _ => rfl, fun _ => rfl⟩
  | liveWrite event =>
    refine ⟨_, fun _ => rfl, fun s => ?_⟩
    unfold liveWriteEvent
    split
    · exact ite_resetN rfl rfl
    · split
      · exact ite_resetN (ite_resetN rfl rfl) rfl
      · rfl
  | liveWriteResponse memory =>
    refine ⟨_, fun _ => rfl, fun s => ?_⟩
    split
    · exact ite_resetN rfl rfl
    · rfl
  | liveRead o => exact ⟨_, fun _ => rfl, fun _ => ite_resetN (ite_resetN rfl rfl) rfl⟩
  | deviceFlagsRead o => exact ⟨_, fun _ => rfl, fun _ => ite_resetN (ite_resetN rfl rfl) rfl⟩
  | heldRead o => exact ⟨_, fun _ => rfl, fun _ => ite_resetN rfl rfl⟩
  | forwardedReadArrival o => exact ⟨_, fun _ => rfl, fun _ => ite_resetN rfl rfl⟩
  | forwardedRead =>
    refine ⟨_, fun _ => rfl, fun s => ?_⟩
    unfold takeReadAddr
    split <;> rfl
  | readDataReturn id d r l issued => exact ⟨_, fun _ => rfl, fun _ => ite_resetN rfl rfl⟩
  | partReadBeatsReturn memory =>
    refine ⟨_, fun _ => rfl, fun s => ?_⟩
    split
    · exact ite_resetN rfl rfl
    · rfl
  | forwardedWriteResponse id r issued => exact ⟨_, fun _ => rfl, fun _ => ite_resetN rfl rfl⟩
  | downstreamWriteGrant o before =>
    refine ⟨_, fun _ => rfl, fun s => ?_⟩
    unfold completeGrant
    dsimp only
    split
    · rfl
    · exact sendWriterData_resetN _
    · rfl
  | forwardedWriteBeat d m =>
    refine ⟨_, fun _ => rfl, fun s => ?_⟩
    split
    · exact ite_resetN rfl (forwardBeat_resetN _ d m s)
    · rfl
  | inSequenceSample ch v => exact ⟨_, fun _ => rfl, fun _ => ite_resetN (takeSample_resetN ch v _) rfl⟩
  | sampleStray ch a m v => exact ⟨_, fun _ => rfl, fun _ => ite_resetN (takeSampleStray_resetN ch a _) rfl⟩
  | voltageTaken src v => exact ⟨_, fun _ => rfl, fun _ => ite_resetN rfl rfl⟩
  | pairArrival src v =>
    refine ⟨_, fun _ => rfl, fun s => ?_⟩
    dsimp only
    split
    · exact ite_resetN (takeCurrent_resetN src _ v _) rfl
    · rfl
  | monitorStray src a m v => exact ⟨_, fun _ => rfl, fun _ => ite_resetN rfl rfl⟩
  | chargeExcess ch i =>
    exact ⟨_, fun _ => rfl, fun s => ite_resetN (EngineFrame_resetN (meterRun_frame _ i ch s)) rfl⟩
  | recordWriteBegin => exact ⟨_, fun _ => rfl, beginWrite_resetN⟩
  | recordWriteOkay issued => exact ⟨_, fun _ => rfl, fun _ => ite_resetN (ite_resetN rfl rfl) rfl⟩
  | publication issued =>
    exact ⟨_, fun _ => rfl, fun s => ite_resetN (ite_resetN rfl (publish_resetN s)) rfl⟩
  | writeErrorResponse r issued =>
    exact ⟨_, fun _ => rfl, fun _ => ite_resetN (ite_resetN rfl rfl) (ite_resetN (ite_resetN rfl rfl) rfl)⟩

/-- The part right after RESET_N is asserted is quiet and gives no notice (R165, R181). -/
theorem resetLineInv_assertReset (s : State) : ResetLineInv (assertReset s) where
  released _ := noticeAsserted_off rfl
  quiet _ := (BoardLearning.quiet_iff _).2 ⟨fun ch => congrArg Channel.state (reset_ch (assertReset s) rfl ch), rfl⟩
  enables _ := rfl

/-- While RESET_N is high nothing is said of the reset line. -/
theorem resetLineInv_up {s : State} (h : s.resetN = true) : ResetLineInv s := by
  constructor <;> exact fun hdown => Bool.noConfusion (h.symm.trans hdown)

/-- A command finds the part down and leaves it, or leaves it up, or is the reset itself. -/
theorem resetLineInv_exec {c : Instr} {s t : State} (h : ResetLineInv s) (he : exec c s = .next t) :
    ResetLineInv t := by
  cases hc : ofResetLine c with
  | true =>
    cases c with
    | hardwareReset =>
      cases he
      exact resetLineInv_assertReset s
    | resetNRelease straps =>
      cases he
      refine resetLineInv_up ?_
      unfold releaseReset
      split
      · next hup => exact hup
      · rfl
    | _ => cases hc
  | false =>
    obtain ⟨f, hexec, hline⟩ := actsWhileUp hc
    rw [hexec] at he
    cases he
    cases hr : s.resetN with
    | true =>
      rw [whileUp_up hr]
      exact resetLineInv_up ((hline s).trans hr)
    | false =>
      rw [whileUp_down hr]
      exact h

/-- A step keeps the reset line's state (R165, R181). -/
theorem resetLineInv_step {s t : State} (h : ResetLineInv s) (he : step s = .next t) : ResetLineInv t := by
  unfold step at he
  split at he
  · cases he
    cases hr : s.resetN with
    | true =>
      exact resetLineInv_up ((clkCycle_resetN hr).trans hr)
    | false =>
      rw [ChannelEngines.clkCycle_down hr]
      exact h
  · next rest _ =>
    have hrest : ResetLineInv { s with pending := rest } := ⟨h.released, h.quiet, h.enables⟩
    exact resetLineInv_exec hrest he

/-! ### Every step -/

/-- The bounds are the invariants of the statement but that of the reset line. -/
theorem bounds_iff (s : State) : Bounds s ↔ Table.wf s.table = true ∧ TripInv s ∧ LearnInv s ∧ BoardInv s ∧
    ListsInv s ∧ DividerInv s ∧ CursorInv s ∧ HistoryInv s := by
  constructor
  · intro h
    obtain ⟨hwf, hlearn, htrip⟩ := (runsOk_iff s).1 h.runs
    exact ⟨hwf, htrip, hlearn, h.board, ⟨h.reads.1, h.writes, h.reads.2⟩, h.divider,
      ⟨h.taps, fun src => (h.sources src).1⟩, fun src => (h.sources src).2⟩
  · rintro ⟨hwf, htrip, hlearn, hboard, ⟨hreads, hwrites, hwaits⟩, hdivider, hcursor, hhistory⟩
    exact ⟨(runsOk_iff s).2 ⟨hwf, hlearn, htrip⟩, hboard, ⟨hreads, hwaits⟩, hwrites, hdivider, hcursor.taps,
      fun src => ⟨hcursor.monitors src, hhistory src⟩⟩

/-- Settles O60: the bounds are kept by every operation, and the reset line's state by every command. -/
theorem stepKeepsTheBounds : Obligations.StepKeepsTheBounds := by
  rintro s t hwf ⟨htrip, hlearn, hboard, hlists, hdivider, hcursor, hhistory, hline⟩ hstep
  have hbounds := (bounds_iff s).2 ⟨hwf, htrip, hlearn, hboard, hlists, hdivider, hcursor, hhistory⟩
  obtain ⟨-, h1, h2, h3, h4, h5, h6, h7⟩ := (bounds_iff t).1 (bounds_kept.step hbounds hstep)
  exact ⟨h1, h2, h3, h4, h5, h6, h7, resetLineInv_step hline hstep⟩

end Sys2Proof.StimulusGuard
end

section
/-! SUPPORT. The words of a source, the words of a monitor window, and GUARD_CLEAR (R125 to R128, R130, R137, R139). -/

namespace Sys2Proof.StimulusGuard

open Sys2Proof Sys2Proof.Machine Sys2Proof.Safety Sys2Proof.MeasurementPlan Sys2Proof.ChannelEngines

/-! ### The words of a source (R125, R130) -/

section
variable (src : SrcNo) (v : Word) {s : State} (hup : s.resetN = true)
include hup

theorem exec_monBaseWrite :
    exec (.monBaseWrite src v) s = .next (takeMonBase src v (sentWord s (0x40180 + src.val * 32) v)) :=
  next_whileUp hup

theorem exec_monLenWrite :
    exec (.monLenWrite src v) s = .next (takeMonLen src v (sentWord s (0x40184 + src.val * 32) v)) := next_whileUp hup

theorem exec_iLimitWrite :
    exec (.iLimitWrite src v) s = .next (takeILimit src v (sentWord s (0x40188 + src.val * 32) v)) := next_whileUp hup

theorem exec_vLimitWrite :
    exec (.vLimitWrite src v) s = .next (takeVLimit src v (sentWord s (0x4018C + src.val * 32) v)) := next_whileUp hup

theorem exec_pLimitWrite :
    exec (.pLimitWrite src v) s = .next (takePLimit src v (sentWord s (0x40190 + src.val * 32) v)) := next_whileUp hup

theorem exec_periodWrite :
    exec (.periodWrite src v) s = .next (takePeriod src v (sentWord s (0x40194 + src.val * 32) v)) := next_whileUp hup

theorem exec_guardCtrlWrite :
    exec (.guardCtrlWrite src v) s = .next (takeGuardCtrl src v (sentWord s (0x40198 + src.val * 32) v)) :=
  next_whileUp hup

end

/-- MON_LEN takes the low 16 bits and starts the window again (R125). -/
theorem takeMonLen_eq (src : SrcNo) (v : Word) (s : State) : takeMonLen src v s = s.setSrc src { s.src src with
    len := v.setWidth 16, cursor := (s.src src).base, half := none, history := [] } := by
  rw [takeMonLen, ← BitVec.setWidth_eq_extractLsb' (by decide)]
  rfl

/-- PERIOD takes the low 16 bits (R130). -/
theorem takePeriod_eq (src : SrcNo) (v : Word) (s : State) :
    takePeriod src v s = s.setSrc src { s.src src with period := v.setWidth 16 } := by
  rw [takePeriod, ← BitVec.setWidth_eq_extractLsb' (by decide)]

/-- Settles O19: none of the seven words has a check, so what each writes of its source is read off. -/
theorem sourceWordsAreTaken : Obligations.SourceWordsAreTaken := by
  intro src v s hup
  exact ⟨exec_monBaseWrite src v hup, (exec_monLenWrite src v hup).trans (congrArg _ (takeMonLen_eq src v _)),
    exec_iLimitWrite src v hup, exec_vLimitWrite src v hup, exec_pLimitWrite src v hup,
    (exec_periodWrite src v hup).trans (congrArg _ (takePeriod_eq src v _)), exec_guardCtrlWrite src v hup⟩

/-! ### Voltage words and strays (R127, R128) -/

/-- A full word at the cursor with the half pair empty is a voltage word (R127). -/
theorem exec_voltageTaken {src : SrcNo} (v : Word) {s : State} (hup : s.resetN = true)
    (hc : s.classify (s.src src).cursor = .monitor src) (hhalf : (s.src src).half = none) :
    exec (.voltageTaken src v) s = .next (takeVoltage src v (sent s (.downWord (s.src src).cursor 0xF#4 v))) :=
  (next_whileUp hup).trans (congrArg _ (if_pos ⟨hc, hhalf⟩))

/-- A word is a stray unless it is full, and at the cursor's voltage or current address as the half pair asks (R127). -/
theorem classify_stray {r : Source} {a : Addr} {strb : BitVec 4}
    (hvoltage : ¬ (strb = 15#4 ∧ r.half = none ∧ a = r.cursor))
    (hcurrent : ¬ (strb = 15#4 ∧ r.half ≠ none ∧ a = r.cursor + 4)) : Source.classify r a strb = .stray := by
  unfold Source.classify
  split
  · next hfull =>
    have hstrb : strb = 15#4 := (fullStrobe_iff strb).1 hfull
    split
    · next hhalf => exact if_neg fun ha => hvoltage ⟨hstrb, hhalf, ha⟩
    · next hhalf => exact if_neg fun ha => hcurrent ⟨hstrb, by rw [hhalf]; exact nofun, ha⟩
  · rfl

/-- A present word of the window that the tap does not take is a stray (R127, R128). -/
theorem exec_monitorStray {src : SrcNo} {a : Addr} {strb : BitVec 4} (v : Word) {s : State} (hup : s.resetN = true)
    (hc : s.classify a = .monitor src) (h4 : a.toNat % 4 = 0) (h0 : strb ≠ 0#4)
    (hstray : Source.classify (s.src src) a strb = .stray) :
    exec (.monitorStray src a strb v) s = .next (takeMonitorStray src a (sent s (.downWord a strb v))) := by
  have hpresent : absentStrobe strb = false := Bool.eq_false_iff.2 (h0 ∘ (absentStrobe_iff strb).1)
  have his : s.isMonitorStray src a strb = true := by
    simp [State.isMonitorStray, hc, wordOf_eq_self h4, hpresent, hstray]
  exact (next_whileUp hup).trans (congrArg _ (if_pos his))

/-- Settles O39: a voltage word fills the half pair, and whatever the tap takes neither as voltage nor as current is a
stray. -/
theorem monitorWordsFillOrStray : Obligations.MonitorWordsFillOrStray := by
  intro src v a strb s hup r
  exact ⟨fun hc hhalf => exec_voltageTaken v hup hc hhalf, fun hc h4 h0 hvoltage hcurrent =>
    exec_monitorStray v hup hc h4 h0 (classify_stray hvoltage hcurrent)⟩

/-! ### GUARD_CLEAR (R137, R139) -/

/-- Motion hold is engaged while some source has its hold enable and a trip (R139). -/
theorem holdEngaged_iff (s : State) : s.holdEngaged = true ↔
    ∃ src : SrcNo, (s.src src).holdEnable = true ∧ TripSet.nonempty (s.src src).trips = true := by
  simp [State.holdEngaged, Source.holdsMotion, mem_allSources]

/-- A cleared source holds no motion, and any other holds it as before (R137, R139). -/
theorem holdEngaged_clearGuards (mask : BitVec 24) (s : State) : (clearGuards mask s).holdEngaged = true ↔
    ∃ src : SrcNo, mask.getLsbD src.val = false ∧ (s.src src).holdEnable = true ∧
      TripSet.nonempty (s.src src).trips = true := by
  rw [holdEngaged_iff]
  refine exists_congr fun src => ?_
  rw [clearGuards_src]
  cases hbit : mask.getLsbD src.val with
  | true => simp [Source.cleared, TripSet.nonempty, TripSet.empty]
  | false => simp

/-- Settles O28: the device command clears by the bits of its mask, and motion hold is read off what is left. -/
theorem guardClearEmptiesSelectedSources : Obligations.GuardClearEmptiesSelectedSources := by
  intro arg s hup hfree
  exact ⟨_, (exec_guardClear arg hup).trans (congrArg _ (deviceCommand_free hfree)),
    clearGuards_src arg (sentWord s 0x41020 (5#8 ++ arg)), rfl,
    holdEngaged_clearGuards arg (sentWord s 0x41020 (5#8 ++ arg))⟩

end Sys2Proof.StimulusGuard
end

section
/-! SUPPORT. What a pair compares and finds, the runs a trip ends, and the charge a pair meters (R125, R127, R131 to
R136). -/

namespace Sys2Proof.StimulusGuard

open Sys2Proof Sys2Proof.Machine Sys2Proof.Safety Sys2Proof.MeasurementPlan Sys2Proof.ChannelEngines

/-! ### Comparison (R131, R132) -/

/-- A limit in force that a magnitude lies over, as the comparison tests it (R132). -/
theorem over_limit_iff (n m k : Nat) : (decide (n ≠ 0) && decide (m < k)) = true ↔ n ≠ 0 ∧ m < k := by
  rw [Bool.and_eq_true, decide_eq_true_eq, decide_eq_true_eq]

/-- No kinds added to a set leave it. -/
theorem union_empty (a : TripSet) : TripSet.union a .empty = a := by
  simp only [TripSet.union, TripSet.empty, Bool.or_false]

/-- A source with kinds added to its set (R134). -/
def latched (src : SrcNo) (found : TripSet) (s : State) : State :=
  s.setSrc src { s.src src with trips := TripSet.union (s.src src).trips found }

/-- Kinds found on a source without a trip end the runs bound to it (R133). -/
theorem tripCheck_trips {src : SrcNo} {found : TripSet} {s : State}
    (h : TripSet.nonempty found = true ∧ ¬ TripSet.nonempty (s.src src).trips = true) :
    tripCheck src found s = endBoundRuns src (latched src found s) := by
  obtain ⟨hfound, hfree⟩ := h
  exact if_pos (by rw [hfound, Bool.eq_false_iff.2 hfree]; rfl)

/-- No kinds, and kinds found on a tripped source, do no more than latch (R132, R134). -/
theorem tripCheck_latches {src : SrcNo} {found : TripSet} {s : State}
    (h : ¬ (TripSet.nonempty found = true ∧ ¬ TripSet.nonempty (s.src src).trips = true)) :
    tripCheck src found s = latched src found s :=
  if_neg fun htrip => h (by rwa [Bool.and_eq_true, Bool.not_eq_true', ← Bool.not_eq_true] at htrip)

/-- Settles O40: the three conditions are read off the comparison, and the empty set of kinds trips nothing. -/
theorem comparisonFindsTripKinds : Obligations.ComparisonFindsTripKinds := by
  refine ⟨fun r v i => over_limit_iff _ _ _, fun r v i => over_limit_iff _ _ _, fun r v i => over_limit_iff _ _ _,
    by decide, fun src s => ?_⟩
  rw [tripCheck_latches fun h => Bool.noConfusion h.1, latched, union_empty, setSrc_src_same]
  exact ⟨rfl, rfl⟩

/-- AVG4 compares the means of a full history (R131). -/
theorem compared_avg4 {r : Source} (p : Pair) (hmode : r.mode = .avg4) (hfull : r.history.length = 4) :
    Source.compared r p = some (mean4 (r.history.map fun q => q.voltage.toInt),
      mean4 (r.history.map fun q => q.current.toInt)) := by
  rw [Source.compared, hmode]
  exact if_pos hfull

/-- The mean of four values. -/
theorem mean4_four (a b c d : Int) : mean4 [a, b, c, d] = (a + b + c + d).tdiv 4 := by
  have hsum : [a, b, c, d].sum = a + b + c + d := by
    simp only [List.sum_cons, List.sum_nil]
    omega
  rw [mean4, hsum]

/-- Settles O41: by the mode for what is compared, and by the length of the history for what it keeps. -/
theorem comparedValuesFollowTheMode : Obligations.ComparedValuesFollowTheMode := by
  intro r p
  refine ⟨fun heach => ?_, fun a b c d havg hist => ?_, fun havg hshort => ?_, fun v i => found_some, found_none,
    fun h hroom => ?_, fun o h hthree => ?_⟩
  · rw [Source.compared, heach]
  · rw [compared_avg4 p havg (by rw [hist]; rfl), hist]
    exact congrArg some (Prod.ext (mean4_four ..) (mean4_four ..))
  · rw [Source.compared, havg]
    exact if_neg hshort
  · rw [addHistory, if_pos hroom]
  · have hfull : ¬ (o :: h).length < 4 := by rw [List.length_cons, hthree]; decide
    rw [addHistory, if_neg hfull]
    rfl

/-! ### The charge of a pair (R125, R135) -/

/-- A context with the charge of a pair's current metered into it (R135). -/
def metering (i : Word) (period : BitVec 16) (c : Channel) : Channel :=
  { c with charge := addCharge c.charge (chargeOf i period) }

/-- A pair is not metered without a run to meter it into (R125, R135). -/
theorem meterRun_unmetered {src : SrcNo} {ch : ChanNo} {s : State} (i : Word) (h : s.metered src ch = false) :
    meterRun src i ch s = s := if_neg (Bool.eq_false_iff.1 h)

/-- A metered run within its budget goes on with its charge (R135). -/
theorem meterRun_charges {src : SrcNo} {ch : ChanNo} {i : Word} {s : State} (hm : s.metered src ch = true)
    (h : chargeOver src i s ch = false) : meterRun src i ch s = s.setCh ch (metering i (s.src src).period (s.ch ch)) := by
  rw [chargeOver, hm, Bool.true_and] at h
  exact (if_pos hm).trans (if_neg (Bool.eq_false_iff.1 h))

section
variable {src : SrcNo} {ch : ChanNo} {sn : Snapshot} {s : State} (hsn : (s.ch ch).snapshot = some sn)
include hsn

/-- A metered run over its budget ends with CHARGE (R135). -/
theorem meterRun_ends {i : Word} (h : chargeOver src i s ch = true) :
    EndedUnjudged ch (metering i (s.src src).period (s.ch ch)) sn .charge 0
      (s.setCh ch (metering i (s.src src).period (s.ch ch))) (meterRun src i ch s) := by
  obtain ⟨hm, hover⟩ := Bool.and_eq_true_iff.1 h
  have hsame := setCh_ch_same s ch (metering i (s.src src).period (s.ch ch))
  have hend : meterRun src i ch s =
      endRun ch (Ending.plain .charge) (s.setCh ch (metering i (s.src src).period (s.ch ch))) :=
    (if_pos hm).trans (if_pos hover)
  have hended := endRun_plain (s := s.setCh ch (metering i (s.src src).period (s.ch ch))) .charge
    (by rw [hsame]; exact hsn)
  rwa [hsame, ← hend] at hended

/-- A pair carries a metered run over its budget by the charge that it leaves (R135). -/
theorem chargeOver_iff (i : Word) : chargeOver src i s ch = true ↔ s.metered src ch = true ∧
    sn.host.budget.toNat * 10000 < (metering i (s.src src).period (s.ch ch)).charge.toNat := by
  have hbudget : Channel.budget (s.ch ch) = sn.host.budget := by rw [Channel.budget, hsn]
  rw [chargeOver, Bool.and_eq_true, hbudget, overBudget, decide_eq_true_eq]
  rfl

variable (hflies : Channel.inFlight (s.ch ch) = true) (hsrc : sn.host.source = src)
include hflies hsrc

/-- A run in flight on a source is bound to it (R61, R133). -/
theorem boundTo_of_inFlight : Channel.boundTo (s.ch ch) src = true := (boundTo_iff _ _).2 ⟨sn, hsn, hflies, hsrc⟩

/-- A run on a source is metered with a window, a PERIOD and a budget (R125, R135). -/
theorem metered_iff : s.metered src ch = true ↔
    (s.src src).len.toNat ≠ 0 ∧ (s.src src).period.toNat ≠ 0 ∧ sn.host.budget.toNat ≠ 0 := by
  unfold State.metered
  rw [hsn, boundTo_of_inFlight hsn hflies hsrc]
  simp [← BitVec.toNat_inj, and_assoc]

end

/-- CHARGE_EXCESS meters the pair where its charge carries the run over its budget (R135; log 12). -/
theorem exec_chargeExcess {ch : ChanNo} {s : State} {sn : Snapshot} (i : Word) (hup : s.resetN = true)
    (hsn : (s.ch ch).snapshot = some sn) : exec (.chargeExcess ch i) s = .next
      (if chargeOver sn.host.source i s ch = true then meterRun sn.host.source i ch s else s) := by
  have hsource : Channel.source (s.ch ch) = sn.host.source := by rw [Channel.source, hsn]
  rw [← hsource]
  exact next_whileUp hup

/-- Settles O43: the run ends where the pair carries it over its budget, and otherwise nothing happens. -/
theorem chargeExcessEndsTheRun : Obligations.ChargeExcessEndsTheRun := by
  intro ch i sn s hup hflies hsn period window charge c exceeds
  have hover : chargeOver sn.host.source i s ch = true ↔ exceeds := by
    rw [chargeOver_iff hsn, metered_iff hsn hflies rfl, and_assoc, and_assoc]
    rfl
  refine ⟨fun h => ⟨meterRun sn.host.source i ch s, ?_, meterRun_ends hsn (hover.2 h)⟩, fun h => ?_⟩
  · rw [exec_chargeExcess i hup hsn, if_pos (hover.2 h)]
  · rw [exec_chargeExcess i hup hsn, if_neg fun h' => h (hover.1 h')]

/-! ### What a trip and a pair's charge leave of a channel (R133, R135) -/

/-- A trip leaves a channel that is not bound to its source. -/
theorem endBoundRuns_ch_unbound {src : SrcNo} {ch : ChanNo} {s : State} (h : Channel.boundTo (s.ch ch) src = false) :
    (endBoundRuns src s).ch ch = s.ch ch := by
  rw [endBoundRuns_ch, endGuarded, if_neg (Bool.eq_false_iff.1 h)]

/-- A trip ends a run bound to its source with GUARD (R133). -/
theorem endBoundRuns_ch_bound {src : SrcNo} {ch : ChanNo} {sn : Snapshot} {s : State}
    (hsn : (s.ch ch).snapshot = some sn) (h : Channel.boundTo (s.ch ch) src = true) :
    (endBoundRuns src s).ch ch = { s.ch ch with
      held := some (unjudged s ch (s.ch ch) sn .guard 0), deadline := none, state := .holding,
      chainSuppressed := true } := by
  rw [endBoundRuns_ch, endGuarded, if_pos h, (endRun_plain .guard hsn).context]
  exact congrArg (fun b => { s.ch ch with
    held := some (unjudged s ch (s.ch ch) sn .guard 0), deadline := none, state := .holding, chainSuppressed := b })
    (Bool.or_true _)

/-- A pair leaves a channel that it is not metered into. -/
theorem meterPair_ch_unmetered {src : SrcNo} {ch : ChanNo} {s : State} (i : Word) (h : s.metered src ch = false) :
    (meterPair src i s).ch ch = s.ch ch := by rw [meterPair_ch, meterRun_unmetered i h]

/-- A pair is metered into a run within its budget (R135). -/
theorem meterPair_ch_charges {src : SrcNo} {ch : ChanNo} {i : Word} {s : State} (hm : s.metered src ch = true)
    (h : chargeOver src i s ch = false) :
    (meterPair src i s).ch ch = metering i (s.src src).period (s.ch ch) := by
  rw [meterPair_ch, meterRun_charges hm h, setCh_ch_same]

/-- A pair ends a run that it carries over its budget with CHARGE (R135). -/
theorem meterPair_ch_ends {src : SrcNo} {ch : ChanNo} {sn : Snapshot} {i : Word} {s : State}
    (hsn : (s.ch ch).snapshot = some sn) (h : chargeOver src i s ch = true) :
    (meterPair src i s).ch ch = { metering i (s.src src).period (s.ch ch) with
      held := some (unjudged s ch (s.ch ch) sn .charge 0), deadline := none, state := .holding,
      chainSuppressed := true } := by
  rw [meterPair_ch, (meterRun_ends hsn h).context, unjudged_congr (.setCh s ch _)]
  exact congrArg (fun b => { metering i (s.src src).period (s.ch ch) with
    held := some (unjudged s ch (s.ch ch) sn .charge 0), deadline := none, state := .holding, chainSuppressed := b })
    (Bool.or_true _)

/-- The channels that newly hold a verdict, named by a test that ends runs in flight and leaves the others' states. -/
theorem filter_newlyHolding {s t : State} {src : SrcNo} {ends : ChanNo → Bool}
    (hbound : ∀ ch, ends ch = true → Channel.boundTo (s.ch ch) src = true)
    (hends : ∀ ch, ends ch = true → (t.ch ch).state = .holding)
    (hgoes : ∀ ch, ends ch = false → (t.ch ch).state = (s.ch ch).state) :
    (allChannels.filter fun ch => decide ((s.ch ch).state ≠ .holding ∧ (t.ch ch).state = .holding)) =
      allChannels.filter ends := by
  refine List.filter_congr fun ch _ => ?_
  cases hch : ends ch with
  | false => rw [hgoes ch hch]; exact decide_eq_false fun h => h.1 h.2
  | true =>
    obtain ⟨_, _, hflies, _⟩ := (boundTo_iff _ _).1 (hbound ch hch)
    refine decide_eq_true ⟨fun hhold => ?_, hends ch hch⟩
    rw [Channel.inFlight, hhold] at hflies
    cases hflies

/-- A trip ends the runs of the channels that newly hold a verdict (R133). -/
theorem endBoundRuns_runsEnded (src : SrcNo) (s : State) :
    RunsEnded (allChannels.filter fun ch =>
      decide ((s.ch ch).state ≠ .holding ∧ ((endBoundRuns src s).ch ch).state = .holding)) s (endBoundRuns src s) := by
  rw [filter_newlyHolding (src := src) (ends := fun ch => Channel.boundTo (s.ch ch) src) (fun _ => id)]
  · exact endBoundRuns_ended src s
  · intro ch h
    obtain ⟨sn, hsn, _, _⟩ := (boundTo_iff _ _).1 h
    rw [endBoundRuns_ch_bound hsn h]
  · exact fun ch h => congrArg _ (endBoundRuns_ch_unbound h)

/-- A pair's charge ends the runs of the channels that newly hold a verdict (R135). -/
theorem meterPair_runsEnded (src : SrcNo) (i : Word) (s : State) :
    RunsEnded (allChannels.filter fun ch =>
      decide ((s.ch ch).state ≠ .holding ∧ ((meterPair src i s).ch ch).state = .holding)) s (meterPair src i s) := by
  have hbound (ch : ChanNo) (h : chargeOver src i s ch = true) : Channel.boundTo (s.ch ch) src = true :=
    metered_boundTo (Bool.and_eq_true_iff.1 h).1
  rw [filter_newlyHolding hbound]
  · exact meterPair_ended src i s
  · intro ch h
    obtain ⟨sn, hsn, _, _⟩ := (boundTo_iff _ _).1 (hbound ch h)
    rw [meterPair_ch_ends hsn h]
  · intro ch h
    cases hm : s.metered src ch with
    | false => rw [meterPair_ch_unmetered i hm]
    | true => rw [meterPair_ch_charges hm h]; rfl

/-! ### Pair arrivals (R127, R131, R133 to R136) -/

/-- A pair acts on its source by the kinds it finds, and then on each run bound to it: a pair that trips the source ends
them and is metered into none, and any other is metered (R133, R134, R136). -/
theorem meterPair_tripCheck (src : SrcNo) (found : TripSet) (i : Word) (s : State) :
    meterPair src i (tripCheck src found s) =
      if TripSet.nonempty found = true ∧ ¬ TripSet.nonempty (s.src src).trips = true then
        endBoundRuns src (latched src found s)
      else meterPair src i (latched src found s) := by
  split
  · next h => rw [tripCheck_trips h, meterPair_none fun ch => endBoundRuns_unbound src _ ch]
  · next h => rw [tripCheck_latches h]

/-- The kinds that a completed pair finds (R131, R132). -/
def pairFound (src : SrcNo) (p : Pair) (s : State) : TripSet := Source.found (pairTaken (s.src src) p) p

/-- A state with the current word sent on, the pair completed, and the kinds it finds latched (R127, R131, R134). -/
def pairLatched (src : SrcNo) (p : Pair) (s : State) : State :=
  latched src (pairFound src p s)
    ((sent s (.downWord ((s.src src).cursor + 4) 0xF#4 p.current)).setSrc src (pairTaken (s.src src) p))

/-- A full word at the cursor's current address with a voltage held completes the pair, which trips the source or is
metered (R127, R133, R136). -/
theorem exec_pairArrival {src : SrcNo} {v : Word} (i : Word) {s : State} (hup : s.resetN = true)
    (hhalf : (s.src src).half = some v) (hc : s.classify ((s.src src).cursor + 4) = .monitor src) :
    exec (.pairArrival src i) s = .next
      (if TripSet.nonempty (pairFound src { voltage := v, current := i } s) = true ∧
          ¬ TripSet.nonempty (s.src src).trips = true then
        endBoundRuns src (pairLatched src { voltage := v, current := i } s)
      else meterPair src i (pairLatched src { voltage := v, current := i } s)) := by
  have htaken : exec (.pairArrival src i) s =
      .next (takeCurrent src v i (sent s (.downWord ((s.src src).cursor + 4) 0xF#4 i))) := by
    refine (next_whileUp hup).trans (congrArg _ ?_)
    rw [hhalf]
    exact if_pos hc
  rw [htaken, takeCurrent_eq, meterPair_tripCheck, setSrc_src_same]
  rfl

/-- A completed pair changes its source: the pair is taken, and the kinds it finds join the latched set (R127, R134). -/
theorem pairLatched_eq (src : SrcNo) (p : Pair) (s : State) : pairLatched src p s =
    (sent s (.downWord ((s.src src).cursor + 4) 0xF#4 p.current)).setSrc src { pairTaken (s.src src) p with
      trips := TripSet.union (s.src src).trips (pairFound src p s) } := by
  rw [pairLatched, latched, setSrc_src_same, setSrc_setSrc]
  rfl

/-- A completed pair leaves the window and the PERIOD of its source. -/
theorem pairLatched_src (src : SrcNo) (p : Pair) (s : State) :
    ((pairLatched src p s).src src).len = (s.src src).len ∧
      ((pairLatched src p s).src src).period = (s.src src).period := by
  rw [pairLatched_eq, setSrc_src_same]
  exact ⟨rfl, rfl⟩

/-- Without a run in flight on a source, a channel is not bound to it. -/
theorem boundTo_of_other {c : Channel} {src : SrcNo}
    (h : ∀ sn, c.snapshot = some sn → Channel.inFlight c = true → sn.host.source ≠ src) :
    Channel.boundTo c src = false := by
  refine Bool.eq_false_iff.2 fun hb => ?_
  obtain ⟨sn, hsn, hflies, hsrc⟩ := (boundTo_iff _ _).1 hb
  exact h sn hsn hflies hsrc

/-- A pair is metered into no channel that is not bound to its source. -/
theorem metered_unbound {src : SrcNo} {ch : ChanNo} {s : State} (h : Channel.boundTo (s.ch ch) src = false) :
    s.metered src ch = false :=
  Bool.eq_false_iff.2 (Bool.eq_false_iff.1 h ∘ metered_boundTo)

/-- Settles O42: the pair either trips the source, which ends the runs bound to it, or is metered into each of them. -/
theorem pairArrivalTripsThenMeters : Obligations.PairArrivalTripsThenMeters := by
  intro src i v s hup hhalf hc r found had trips charged u
  have hexec := exec_pairArrival i hup hhalf hc
  have hu : pairLatched src { voltage := v, current := i } s = u := pairLatched_eq ..
  obtain ⟨hlen, hperiod⟩ := pairLatched_src src { voltage := v, current := i } s
  rw [hu] at hexec hlen hperiod
  by_cases htrips : trips
  · refine ⟨endBoundRuns src u, hexec.trans (congrArg _ (if_pos htrips)), fun ch hother => ?_,
      fun ch sn hsn hflies hsrc => ⟨fun _ => ?_, fun hno => absurd htrips hno, fun hno => absurd htrips hno⟩,
      endBoundRuns_runsEnded src u⟩
    · exact endBoundRuns_ch_unbound (boundTo_of_other (c := u.ch ch) hother)
    · exact endBoundRuns_ch_bound hsn (boundTo_of_inFlight (s := u) hsn hflies hsrc)
  · refine ⟨meterPair src i u, hexec.trans (congrArg _ (if_neg htrips)), fun ch hother => ?_,
      fun ch sn hsn hflies hsrc => ?_, meterPair_runsEnded src i u⟩
    · exact meterPair_ch_unmetered i (metered_unbound (boundTo_of_other (c := u.ch ch) hother))
    · have hwindow : (s.src src).len.toNat ≠ 0 := fun h => len_of_classify hc (BitVec.eq_of_toNat_eq h)
      have hmetered := metered_iff (s := u) hsn hflies hsrc
      have hover := chargeOver_iff (src := src) (s := u) hsn i
      have hcharged : metering i (s.src src).period (u.ch ch) = charged (s.ch ch) := rfl
      rw [hlen, hperiod] at hmetered
      rw [hperiod, hcharged] at hover
      refine ⟨fun h => absurd h htrips, fun _ hnone => ?_, fun _ hp hb => ⟨fun hwithin => ?_, fun hexcess => ?_⟩⟩
      · refine meterPair_ch_unmetered i (Bool.eq_false_iff.2 fun hm => ?_)
        obtain ⟨-, hp, hb⟩ := hmetered.1 hm
        exact hnone.elim hp hb
      · have hunder : chargeOver src i u ch = false :=
          Bool.eq_false_iff.2 fun h => Nat.not_lt.2 hwithin (hover.1 h).2
        rw [meterPair_ch_charges (hmetered.2 ⟨hwindow, hp, hb⟩) hunder, hperiod, hcharged]
      · rw [meterPair_ch_ends (s := u) hsn (hover.2 ⟨hmetered.2 ⟨hwindow, hp, hb⟩, hexcess⟩), hperiod, hcharged]
        rfl

end Sys2Proof.StimulusGuard
end

section
/-! SUPPORT. The addresses of the transaction path: the aperture under its straps, the class of a word address by its
precedence, and the addresses and byte lanes of a burst's beats (R149, R150, R163, R166). -/

namespace Sys2Proof.TransactionPath

open Sys2Proof Sys2Proof.Machine Sys2Proof.Safety Sys2Proof.MeasurementPlan

/-! ### The aperture (R149, R166) -/

/-- The straps are address bits 27:20 of the aperture base (R166). -/
theorem apertureBase_toNat (straps : BitVec 8) : (apertureBase straps).toNat = straps.toNat * 0x100000 := by
  simpa [apertureAddr] using apertureAddr_toNat straps (offset := 0) (by decide)

/-- An address has an aperture offset where it lies that far above the aperture base. -/
theorem apertureOffset_eq_some {straps : BitVec 8} {a : Addr} {off : Nat} :
    apertureOffset straps a = some off ↔ off < 0x100000 ∧ a.toNat = straps.toNat * 0x100000 + off := by
  unfold apertureOffset
  split_ifs
  · rw [Option.some_inj]
    omega
  · simp only [false_iff]
    omega

/-- An address has no aperture offset where it lies outside the aperture. -/
theorem apertureOffset_eq_none {straps : BitVec 8} {a : Addr} : apertureOffset straps a = none ↔
    ¬ (straps.toNat * 0x100000 ≤ a.toNat ∧ a.toNat < straps.toNat * 0x100000 + 0x100000) := by
  unfold apertureOffset
  split_ifs
  · simp only [false_iff]
    omega
  · simp only [true_iff]
    omega

/-- Settles O6: a release while RESET_N is low samples the straps, and the aperture is the MiB that they select. -/
theorem resetReleaseFixesTheApertureBase : Obligations.ResetReleaseFixesTheApertureBase := by
  intro straps s
  refine ⟨fun hdown => congrArg _ (if_neg (Bool.eq_false_iff.1 hdown)), fun hup => congrArg _ (if_pos hup),
    apertureBase_toNat straps, fun a => ?_⟩
  rw [apertureBase_toNat]
  constructor
  · rintro ⟨off, hoff⟩
    have := apertureOffset_eq_some.1 hoff
    omega
  · rintro ⟨hlow, hhigh⟩
    exact ⟨a.toNat - straps.toNat * 0x100000, apertureOffset_eq_some.2 (by omega)⟩

/-! ### The class of a word address (R150) -/

/-- Inside the aperture a word's class is its part, by offset. -/
theorem classify_inside {s : State} {a : Addr} {off : Nat} (h : apertureOffset s.apBase a = some off) :
    s.classify a = if off < 0x40000 then .step off else if off < 0x41000 then .config off
      else if off < 0x42000 then .command off else if off < 0x42100 then .live else .passThrough := by
  unfold State.classify areaOf
  rw [h]
  dsimp only
  split_ifs <;> rfl

/-- Outside the aperture a word's class is its window's. -/
theorem classify_outside {s : State} {a : Addr} (h : apertureOffset s.apBase a = none) :
    s.classify a = s.windowClass a := by
  unfold State.classify
  rw [h]

/-- The lowest channel with a property is the one found. -/
theorem find_channel {p : ChanNo → Bool} {ch : ChanNo} (hp : p ch = true) (hlow : ∀ j < ch, p j = false) :
    allChannels.find? p = some ch :=
  Fin.find?_eq_find?_finRange.symm.trans (Fin.find?_eq_some_iff.2 ⟨hp, hlow⟩)

/-- The lowest source with a property is the one found. -/
theorem find_source {p : SrcNo → Bool} {src : SrcNo} (hp : p src = true) (hlow : ∀ j < src, p j = false) :
    allSources.find? p = some src :=
  Fin.find?_eq_find?_finRange.symm.trans (Fin.find?_eq_some_iff.2 ⟨hp, hlow⟩)

/-- The lowest-numbered sample window claims a word first (R31). -/
theorem windowClass_sample {s : State} {a : Addr} {ch : ChanNo} (hin : Tap.contains (s.tap ch) a = true)
    (hlow : ∀ j < ch, Tap.contains (s.tap j) a = false) : s.windowClass a = .sample ch := by
  unfold State.windowClass
  rw [find_channel hin hlow]

/-- A word of no sample window is claimed by the lowest-numbered monitor window (R129). -/
theorem windowClass_monitor {s : State} {a : Addr} {src : SrcNo} (hno : ∀ ch, Tap.contains (s.tap ch) a = false)
    (hin : Source.contains (s.src src) a = true) (hlow : ∀ j < src, Source.contains (s.src j) a = false) :
    s.windowClass a = .monitor src := by
  unfold State.windowClass
  rw [List.find?_eq_none.2 fun ch _ => Bool.eq_false_iff.1 (hno ch), find_source hin hlow]

/-- A word of no window has no class. -/
theorem windowClass_other {s : State} {a : Addr} (hno : ∀ ch, Tap.contains (s.tap ch) a = false)
    (hnone : ∀ src, Source.contains (s.src src) a = false) : s.windowClass a = .other := by
  unfold State.windowClass
  rw [List.find?_eq_none.2 fun ch _ => Bool.eq_false_iff.1 (hno ch),
    List.find?_eq_none.2 fun src _ => Bool.eq_false_iff.1 (hnone src)]

/-- Settles O46: the aperture's parts by offset come first, and outside it each find goes by number. -/
theorem wordsAreClassifiedByPrecedence : Obligations.WordsAreClassifiedByPrecedence := by
  intro a s base off inside inWindow inMonitor
  have houtside (h : ¬ inside) : s.classify a = s.windowClass a := classify_outside (apertureOffset_eq_none.2 h)
  have hwindow {ch : ChanNo} (h : ¬ inWindow ch) : Tap.contains (s.tap ch) a = false := decide_eq_false h
  have hmonitor {src : SrcNo} (h : ¬ inMonitor src) : Source.contains (s.src src) a = false := decide_eq_false h
  refine ⟨fun hin => classify_inside (apertureOffset_eq_some.2 (by omega)), fun ch hout hin hlow => ?_,
    fun src hout hno hin hlow => ?_, fun hout hno hnone => ?_⟩
  · rw [houtside hout]
    exact windowClass_sample (decide_eq_true hin) fun j hj => hwindow (hlow j hj)
  · rw [houtside hout]
    exact windowClass_monitor (fun ch => hwindow (hno ch)) (decide_eq_true hin) fun j hj => hmonitor (hlow j hj)
  · rw [houtside hout]
    exact windowClass_other (fun ch => hwindow (hno ch)) fun src => hmonitor (hnone src)

/-! ### Beat addresses and byte lanes (R163) -/

section
variable {b : Burst} {size block : Nat} (hsize : Burst.bytes b = size) (hblock : Burst.beats b * size = block)
include hsize hblock

/-- A wrapping burst moves by its size through the block that holds its first address. -/
theorem wrap_beatAddr (hwrap : b.type = .wrap) (i : Nat) : Burst.beatAddr b i =
    BitVec.ofNat 32 (b.addr.toNat - b.addr.toNat % block + (b.addr.toNat % block + i * size) % block) := by
  have hstart : b.addr.toNat / block * block = b.addr.toNat - b.addr.toNat % block := Nat.div_mul_self_eq_mod_sub_self
  have hoff : b.addr.toNat - (b.addr.toNat - b.addr.toNat % block) = b.addr.toNat % block :=
    Nat.sub_sub_self (Nat.mod_le _ _)
  unfold Burst.beatAddr
  rw [hwrap, hsize]
  dsimp only
  rw [hblock, hstart, hoff]

/-- A wrapping burst begins at its first address. -/
theorem wrap_beatAddr_zero (hwrap : b.type = .wrap) : Burst.beatAddr b 0 = b.addr := by
  have h := Nat.mod_le b.addr.toNat block
  rw [wrap_beatAddr hsize hblock hwrap, Nat.zero_mul, Nat.add_zero, Nat.mod_mod, Nat.sub_add_cancel h,
    BitVec.ofNat_toNat, BitVec.setWidth_eq]

end

/-- The next place of that size in a block, where sizes tile the block: the start again after the last place. -/
theorem add_mod_block {x size block : Nat} (hblock : 0 < block) (hdvd : size ∣ block) (hx : size ∣ x) :
    (x + size) % block = if x % block + size = block then 0 else x % block + size := by
  have hlt : x % block < block := Nat.mod_lt _ hblock
  have hle : size ≤ block - x % block :=
    Nat.le_of_dvd (Nat.sub_pos_of_lt hlt) (Nat.dvd_sub hdvd ((Nat.dvd_mod_iff hdvd).2 hx))
  rw [← Nat.mod_add_mod]
  split_ifs with h
  · rw [h, Nat.mod_self]
  · exact Nat.mod_eq_of_lt (by omega)

/-- The next beat of a wrapping burst in a block of the map: the next place, and the block's start after its end. -/
theorem wrap_beatAddr_succ {b : Burst} {size block start : Nat} (hsize : Burst.bytes b = size)
    (hblock : Burst.beats b * size = block) (hwrap : b.type = .wrap) (haligned : b.addr.toNat % size = 0)
    (hstart : start = b.addr.toNat - b.addr.toNat % block) (htop : start + block ≤ 2 ^ 32) (i : Nat) :
    (Burst.beatAddr b (i + 1)).toNat = if (Burst.beatAddr b i).toNat + size = start + block then start
      else (Burst.beatAddr b i).toNat + size := by
  have hdvd : size ∣ block := Dvd.intro_left _ hblock
  have hpos : 0 < block := by
    rw [← hblock, ← hsize]
    exact Nat.mul_pos (Nat.succ_pos _) (Nat.two_pow_pos _)
  have hat (j : Nat) : (Burst.beatAddr b j).toNat = start + (b.addr.toNat % block + j * size) % block := by
    have hlt := Nat.mod_lt (b.addr.toNat % block + j * size) hpos
    rw [wrap_beatAddr hsize hblock hwrap, ← hstart, BitVec.toNat_ofNat, Nat.mod_eq_of_lt (by omega)]
  have hplace : size ∣ b.addr.toNat % block + i * size :=
    Nat.dvd_add ((Nat.dvd_mod_iff hdvd).2 (Nat.dvd_of_mod_eq_zero haligned)) (Nat.dvd_mul_left _ _)
  rw [hat, hat, Nat.succ_mul, ← Nat.add_assoc, add_mod_block hpos hdvd hplace]
  split_ifs <;> omega

/-- The bits of a run of ones. -/
theorem testBit_two_pow_sub {m n : Nat} (h : m ≤ n) (k : Nat) :
    (2 ^ n - 2 ^ m).testBit k = true ↔ m ≤ k ∧ k < n := by
  obtain ⟨d, rfl⟩ := Nat.exists_eq_add_of_le h
  have hfactor : 2 ^ (m + d) - 2 ^ m = 2 ^ m * (2 ^ d - 1) := by rw [pow_add, Nat.mul_sub, Nat.mul_one]
  rw [hfactor, Nat.testBit_two_pow_mul, Nat.testBit_two_pow_sub_one, Bool.and_eq_true, decide_eq_true_eq,
    decide_eq_true_eq]
  omega

/-- A beat's byte lanes run from its address up to the next multiple of its size. -/
theorem lanes_getLsbD (b : Burst) (i : Nat) (k : Fin 8) : (Burst.lanes b i).getLsbD k.val = true ↔
    (Burst.beatAddr b i).toNat % 8 ≤ k.val ∧
      k.val < (Burst.beatAddr b i).toNat % 8 - (Burst.beatAddr b i).toNat % 8 % 2 ^ b.size.val + 2 ^ b.size.val := by
  have hnext := Nat.mod_lt ((Burst.beatAddr b i).toNat % 8) (Nat.two_pow_pos b.size.val)
  have hlow := Nat.mod_le ((Burst.beatAddr b i).toNat % 8) (2 ^ b.size.val)
  unfold Burst.lanes Burst.bytes
  dsimp only
  rw [BitVec.getLsbD_ofNat, decide_eq_true k.isLt, Bool.true_and, Nat.div_mul_self_eq_mod_sub_self,
    testBit_two_pow_sub (by omega)]

/-- Settles O53: each burst type's formula read off, and a wrapping burst's next address by its place in the block. -/
theorem beatAddressesFollowTheBurst : Obligations.BeatAddressesFollowTheBurst := by
  intro b i _ size block
  refine ⟨fun hfixed => ?_, fun hincr => ⟨?_, fun hi => ?_⟩, fun hwrap haligned => ⟨?_, fun _ htop => ?_⟩,
    lanes_getLsbD b i⟩
  · unfold Burst.beatAddr
    rw [hfixed]
  · unfold Burst.beatAddr
    rw [hincr]
    rfl
  · unfold Burst.beatAddr
    rw [hincr, ← Nat.div_mul_self_eq_mod_sub_self]
    exact if_neg (by omega)
  · exact wrap_beatAddr_zero rfl rfl hwrap
  · exact wrap_beatAddr_succ rfl rfl hwrap haligned rfl htop i

end Sys2Proof.TransactionPath
end

section
/-! SUPPORT. The commands that write one word, against the same word of a forwarded write beat: aperture words by their
offset, words of the sample and monitor windows, and words that do nothing but be misused (R5, R24, R40, R127, R150,
R167 to R169). -/

namespace Sys2Proof.TransactionPath

open Sys2Proof Sys2Proof.Machine Sys2Proof.Safety Sys2Proof.MeasurementPlan Sys2Proof.ChannelEngines

/-! ### Words of the aperture (R150, R167) -/

section
variable {c : Instr} {s : State} (hup : s.resetN = true)
include hup

/-- A forwarded configuration word is taken as in a beat. -/
theorem configWrite_handWord (w : ConfigWord) (v : Word) {take : State → State} (htake : takeConfigWord w v = take)
    (hexec : exec c s = .next (configWrite w v take s)) : exec c s =
      .next (handWord (apertureAddr s.apBase (ConfigWord.offset w)) 0xF#4 v (sentWord s (ConfigWord.offset w) v)) := by
  subst htake
  exact (hexec.trans (next_whileUp hup)).trans
    (congrArg _ (handWord_config (sentWord s (ConfigWord.offset w) v) w v).symm)

/-- A forwarded command word is taken as in a beat. -/
theorem commandWrite_handWord (w : CommandWord) (v : Word) {take : State → State} (htake : takeCommandWord w v = take)
    (hexec : exec c s = .next (commandWrite w v take s)) : exec c s =
      .next (handWord (apertureAddr s.apBase (CommandWord.offset w)) 0xF#4 v
        (sentWord s (CommandWord.offset w) v)) := by
  subst htake
  exact (hexec.trans (next_whileUp hup)).trans
    (congrArg _ (handWord_command (sentWord s (CommandWord.offset w) v) w v).symm)

end

/-- A forwarded word of the step area is taken as in a beat. -/
theorem stepWrite_handWord {c : Instr} {s : State} {offset : Nat} (ho : offset < 0x40000) (v : Word)
    {take : State → State} (htake : takeStepWord offset v = take)
    (hexec : exec c s = .next (take (sentWord s offset v))) :
    exec c s = .next (handWord (apertureAddr s.apBase offset) 0xF#4 v (sentWord s offset v)) := by
  subst htake
  exact hexec.trans (congrArg _ (handWord_step (sentWord s offset v) ho v).symm)

/-- RING_CTRL is an enable or a disable by its bit 0 (R109, R110). -/
theorem takeRingCtrl_ringCtrlValue (high : BitVec 31) (enable : Bool) :
    takeRingCtrl (ringCtrlValue high enable) = if enable then ringEnable else ringDisable := by
  have hbit : (ringCtrlValue high enable).getLsbD 0 = enable := by
    unfold ringCtrlValue
    rw [BitVec.getLsbD_append]
    cases enable <;> rfl
  funext s
  unfold takeRingCtrl
  rw [hbit]
  cases enable <;> rfl

/-- A code that is neither ARM nor ABORT is an unknown channel command (R40). -/
theorem channelCommand_unknown (ch : ChanNo) {op : BitVec 8} (arg : BitVec 24) (h : op.toNat ≠ 1 ∧ op.toNat ≠ 2) :
    channelCommand ch (commandValue op arg) = setResult ch .badArg := by
  rw [Kept.channelCommand_op]
  funext s
  split
  · exact absurd ‹_› h.1
  · exact absurd ‹_› h.2
  · rfl

/-- A code of no device command is an unknown one (R169). -/
theorem takeDevCmd_unknown {op : BitVec 8} (arg : BitVec 24) (h : op.toNat = 0 ∨ 6 ≤ op.toNat) :
    takeDevCmd (commandValue op arg) = devUnknown := by
  rw [Kept.takeDevCmd_op]
  funext s
  split
  case h_6 => rfl
  all_goals omega

/-- A word 0 to 6 of an entry is an edit (R8). -/
theorem takeStepWord_edit (n : Fin 8191) (k : Fin 7) (v : Word) :
    takeStepWord (n.val * 32 + k.val * 4) v = editEntry n.val k.val v := by
  have hn : (n.val * 32 + k.val * 4) / 32 = n.val := by omega
  have hk : (n.val * 32 + k.val * 4) % 32 / 4 = k.val := by omega
  funext s
  unfold takeStepWord
  rw [hn, hk]
  exact (if_neg (by omega)).trans (if_neg (by omega))

/-- Word 7 of an entry is a commit (R9). -/
theorem takeStepWord_commit (n : Fin 8191) (v : Word) : takeStepWord (n.val * 32 + 28) v = commitEntry n.val v := by
  have hn : (n.val * 32 + 28) / 32 = n.val := by omega
  have hk : (n.val * 32 + 28) % 32 / 4 = 7 := by omega
  funext s
  unfold takeStepWord
  rw [hn, hk]
  exact (if_neg (by omega)).trans (if_pos rfl)

/-- A command that is a full-word write forwards its word and does what the word does in a beat. -/
theorem exec_wordWritten {c : Instr} {offset : Nat} {v : Word} {s : State} (hc : wordWritten c = some (offset, v))
    (hup : s.resetN = true) :
    exec c s = .next (handWord (apertureAddr s.apBase offset) 0xF#4 v (sentWord s offset v)) := by
  cases c with
  | stepWordWrite n k _ =>
    cases hc
    exact stepWrite_handWord (by omega) v (takeStepWord_edit n k v) (next_whileUp hup)
  | commit n _ =>
    cases hc
    exact stepWrite_handWord (by omega) v (takeStepWord_commit n v) (next_whileUp hup)
  | entry8191Write k _ =>
    cases hc
    exact stepWrite_handWord (by omega) v (funext fun u => takeStepWord_8191 k v u) (next_whileUp hup)
  | timebaseDivWrite _ => cases hc; exact configWrite_handWord hup .timebaseDiv v rfl rfl
  | learnTargetWrite _ => cases hc; exact configWrite_handWord hup .learnTarget v rfl rfl
  | noticeEnableWrite _ => cases hc; exact configWrite_handWord hup .noticeEnable v rfl rfl
  | ringLevelWrite _ => cases hc; exact configWrite_handWord hup .ringLevel v rfl rfl
  | ringBaseWrite _ => cases hc; exact configWrite_handWord hup .ringBase v rfl rfl
  | ringSizeWrite _ => cases hc; exact configWrite_handWord hup .ringSize v rfl rfl
  | ringProdAddrWrite _ => cases hc; exact configWrite_handWord hup .ringProdAddr v rfl rfl
  | ringEnable high =>
    cases hc
    exact configWrite_handWord hup .ringCtrl _ (takeRingCtrl_ringCtrlValue high true) rfl
  | ringDisable high =>
    cases hc
    exact configWrite_handWord hup .ringCtrl _ (takeRingCtrl_ringCtrlValue high false) rfl
  | bandTWrite i _ => cases hc; exact configWrite_handWord hup (.bandT i) v rfl rfl
  | bandHystWrite _ => cases hc; exact configWrite_handWord hup .bandHyst v rfl rfl
  | rangeShiftWrite r _ => cases hc; exact configWrite_handWord hup (.rangeShift r) v rfl rfl
  | compWrite k b _ => cases hc; exact configWrite_handWord hup (.comp k b) v rfl rfl
  | sampleBaseWrite ch _ => cases hc; exact configWrite_handWord hup (.sampleBase ch) v rfl rfl
  | sampleLenWrite ch _ => cases hc; exact configWrite_handWord hup (.sampleLen ch) v rfl rfl
  | monBaseWrite src _ => cases hc; exact configWrite_handWord hup (.monBase src) v rfl rfl
  | monLenWrite src _ => cases hc; exact configWrite_handWord hup (.monLen src) v rfl rfl
  | iLimitWrite src _ => cases hc; exact configWrite_handWord hup (.iLimit src) v rfl rfl
  | vLimitWrite src _ => cases hc; exact configWrite_handWord hup (.vLimit src) v rfl rfl
  | pLimitWrite src _ => cases hc; exact configWrite_handWord hup (.pLimit src) v rfl rfl
  | periodWrite src _ => cases hc; exact configWrite_handWord hup (.period src) v rfl rfl
  | guardCtrlWrite src _ => cases hc; exact configWrite_handWord hup (.guardCtrl src) v rfl rfl
  | moveBaseWrite _ => cases hc; exact configWrite_handWord hup .moveBase v rfl rfl
  | moveLenWrite _ => cases hc; exact configWrite_handWord hup .moveLen v rfl rfl
  | motionIdWrite _ => cases hc; exact configWrite_handWord hup .motionId v rfl rfl
  | motionIdMaskWrite _ => cases hc; exact configWrite_handWord hup .motionIdMask v rfl rfl
  | holdPatternWrite _ => cases hc; exact configWrite_handWord hup .holdPattern v rfl rfl
  | arm ch arg => cases hc; exact commandWrite_handWord hup (.chCmd ch) _ (Kept.channelCommand_op ch 1 arg) rfl
  | abort ch arg => cases hc; exact commandWrite_handWord hup (.chCmd ch) _ (Kept.channelCommand_op ch 2 arg) rfl
  | chCmdUnknown ch op arg =>
    obtain ⟨hop, hword⟩ := Option.ite_none_right_eq_some.1 hc
    cases hword
    exact commandWrite_handWord hup (.chCmd ch) _ (channelCommand_unknown ch arg hop)
      (congrArg _ (if_pos ((unknownChOp_iff op).2 hop)))
  | planReset arg => cases hc; exact commandWrite_handWord hup .devCmd _ (Kept.takeDevCmd_op 1 arg) rfl
  | boardOpen arg => cases hc; exact commandWrite_handWord hup .devCmd _ (Kept.takeDevCmd_op 2 arg) rfl
  | boardClose arg => cases hc; exact commandWrite_handWord hup .devCmd _ (Kept.takeDevCmd_op 3 arg) rfl
  | learnClear arg => cases hc; exact commandWrite_handWord hup .devCmd _ (Kept.takeDevCmd_op 4 arg) rfl
  | guardClear arg => cases hc; exact commandWrite_handWord hup .devCmd _ (Kept.takeDevCmd_op 5 arg) rfl
  | devCmdUnknown op arg =>
    obtain ⟨hop, hword⟩ := Option.ite_none_right_eq_some.1 hc
    cases hword
    exact commandWrite_handWord hup .devCmd _ (takeDevCmd_unknown arg hop)
      (congrArg _ (if_pos ((unknownDevOp_iff op).2 hop)))
  | consumerWrite _ => cases hc; exact commandWrite_handWord hup .consumer v rfl rfl
  | tempWrite _ => cases hc; exact commandWrite_handWord hup .temp v rfl rfl
  | inspectWrite _ => cases hc; exact commandWrite_handWord hup .inspect v rfl rfl
  | _ => cases hc

/-! ### Words of the sample windows (R24, R25) -/

section
variable {ch : ChanNo} {a : Addr} {strb : BitVec 4} {s : State} (v : Word) (hc : s.classify a = .sample ch)
include hc

/-- A full word at the cursor is a sample. -/
theorem handWord_sample (ha : a = (s.tap ch).cursor) : handWord a 15#4 v s = takeSample ch v s := by
  unfold handWord
  rw [hc]
  exact (if_neg (by decide)).trans (if_pos (by simp [fullStrobe, ha]))

/-- Any other present word of the window is a stray. -/
theorem handWord_sampleStray (h0 : strb ≠ 0#4) (hno : ¬ (strb = 15#4 ∧ a = (s.tap ch).cursor)) :
    handWord a strb v s = takeSampleStray ch a s := by
  unfold handWord
  rw [hc]
  refine (if_neg (mt (absentStrobe_iff strb).1 h0)).trans (if_neg fun h => hno ?_)
  rwa [Bool.and_eq_true, fullStrobe_iff, beq_iff_eq] at h

end

/-! ### Words of the monitor windows (R127, R128) -/

/-- A word of a monitor window is handed to its tap. -/
theorem handWord_monitor {src : SrcNo} {a : Addr} {s : State} (strb : BitVec 4) (v : Word)
    (hc : s.classify a = .monitor src) : handWord a strb v s = takeMonitorWord src a strb v s := by
  unfold handWord
  rw [hc]

section
variable {src : SrcNo} {a : Addr} {strb : BitVec 4} {s : State} (v : Word) (hc : s.classify a = .monitor src)
  (h0 : strb ≠ 0#4)
include hc h0

theorem handWord_voltage (h : Source.classify (s.src src) a strb = .voltage) :
    handWord a strb v s = takeVoltage src v s := by
  rw [handWord_monitor strb v hc, takeMonitorWord, if_neg (mt (absentStrobe_iff strb).1 h0), h]

theorem handWord_current {x : Word} (h : Source.classify (s.src src) a strb = .pair x) :
    handWord a strb v s = takeCurrent src x v s := by
  rw [handWord_monitor strb v hc, takeMonitorWord, if_neg (mt (absentStrobe_iff strb).1 h0), h]

theorem handWord_monitorStray (h : Source.classify (s.src src) a strb = .stray) :
    handWord a strb v s = takeMonitorStray src a s := by
  rw [handWord_monitor strb v hc, takeMonitorWord, if_neg (mt (absentStrobe_iff strb).1 h0), h]

end

/-- A full word at the cursor with the half pair empty is a voltage word. -/
theorem classify_voltage {r : Source} {a : Addr} (hhalf : r.half = none) (ha : a = r.cursor) :
    Source.classify r a 15#4 = .voltage := by
  unfold Source.classify
  rw [hhalf]
  exact (if_pos rfl).trans (if_pos ha)

/-- A full word at the cursor's current address with a voltage held is a current word. -/
theorem classify_pair {r : Source} {a : Addr} {x : Word} (hhalf : r.half = some x) (ha : a = r.cursor + 4) :
    Source.classify r a 15#4 = .pair x := by
  unfold Source.classify
  rw [hhalf]
  exact (if_pos rfl).trans (if_pos ha)

/-- A full word at the cursor's current address completes the pair that the voltage held began. -/
theorem exec_pairArrival_held {src : SrcNo} {x : Word} (v : Word) {s : State} (hup : s.resetN = true)
    (hhalf : (s.src src).half = some x) (hc : s.classify ((s.src src).cursor + 4) = .monitor src) :
    exec (.pairArrival src v) s =
      .next (takeCurrent src x v (sent s (.downWord ((s.src src).cursor + 4) 0xF#4 v))) := by
  refine (next_whileUp hup).trans (congrArg _ ?_)
  dsimp only
  rw [hhalf]
  exact if_pos hc

/-! ### Words that do nothing or are misused (R5, R6, R168) -/

/-- An absent word does nothing. -/
theorem handWord_absent (a : Addr) (v : Word) (s : State) : handWord a 0#4 v s = s := by
  unfold handWord
  split <;> rfl

/-- A word of the live or pass-through offsets or of no class does nothing. -/
theorem handWord_unclaimed {a : Addr} {s : State} (strb : BitVec 4) (v : Word)
    (h : s.classify a = .live ∨ s.classify a = .passThrough ∨ s.classify a = .other) : handWord a strb v s = s := by
  unfold handWord
  rcases h with h | h | h <;> rw [h]

/-- A partial word of the step, configuration or command area is misuse. -/
theorem handWord_partial {a : Addr} {strb : BitVec 4} {s : State} {off : Nat} (v : Word)
    (h : s.classify a = .step off ∨ s.classify a = .config off ∨ s.classify a = .command off)
    (h0 : strb ≠ 0#4) (h15 : strb ≠ 15#4) : handWord a strb v s = misused s := by
  unfold handWord
  rcases h with h | h | h <;> rw [h] <;> exact apertureWord_partial _ s h0 h15

/-- A full word at an offset where no configuration or command word is assigned, or at a pass-through offset, does
nothing. -/
theorem handWord_unassigned {off : Nat} (v : Word) (s : State) (hlt : off < 0x100000)
    (h : unassignedOffset off = true) : handWord (apertureAddr s.apBase off) 15#4 v s = s := by
  unfold handWord State.classify
  rw [apertureOffset_apertureAddr _ hlt]
  unfold unassignedOffset at h
  split at h
  · next harea =>
    simp only [harea, apertureWord_full, takeConfigOffset, Option.isNone_iff_eq_none.1 h]
  · next harea =>
    simp only [harea, apertureWord_full, takeCommandOffset, Option.isNone_iff_eq_none.1 h]
  · next harea => simp only [harea]
  · cases h
  · cases h

/-- A full word of the live offsets does nothing. -/
theorem handWord_live {off : Nat} (v : Word) (s : State) (h1 : 0x42000 ≤ off) (h2 : off < 0x42100) :
    handWord (apertureAddr s.apBase off) 15#4 v s = s := by
  have hclass := classify_inside (apertureOffset_apertureAddr s.apBase (by omega : off < 0x100000))
  rw [if_neg (by omega), if_neg (by omega), if_neg (by omega), if_pos h2] at hclass
  exact handWord_unclaimed _ v (.inl hclass)

/-- Settles O4: aperture words by their command, window words by the tap's own classification, and the rest by class. -/
theorem wordCommandsDoWhatTheirWordsDo : Obligations.WordCommandsDoWhatTheirWordsDo := by
  refine ⟨fun c offset v s hc hup => exec_wordWritten hc hup, ?_, fun a strb v s => ⟨handWord_absent a v s,
    handWord_unclaimed strb v, fun off h h0 h15 => handWord_partial v h h0 h15⟩, ?_⟩
  · intro a strb v s h4 h0 hup u
    constructor
    · intro ch hc inSequence
      refine ⟨?_, fun hno => ?_⟩
      · rintro ⟨rfl, rfl⟩
        have hword := handWord_sample (s := sent s (.downWord (s.tap ch).cursor 15#4 v)) v hc rfl
        exact ((next_whileUp hup).trans (congrArg _ (if_pos hc))).trans (congrArg _ hword.symm)
      · have hword := handWord_sampleStray (s := sent s (.downWord a strb v)) v hc h0 hno
        exact (exec_sampleStray v hup (isSampleStray_of hc h4 h0 hno)).trans (congrArg _ hword.symm)
    · intro src hc voltage current
      refine ⟨?_, ?_, fun hvoltage hcurrent => ?_⟩
      · rintro ⟨rfl, hhalf, rfl⟩
        have hword := handWord_voltage (s := sent s (.downWord (s.src src).cursor 15#4 v)) v hc h0
          (classify_voltage hhalf rfl)
        exact (StimulusGuard.exec_voltageTaken v hup hc hhalf).trans (congrArg _ hword.symm)
      · rintro ⟨rfl, hhalf, rfl⟩
        obtain ⟨x, hx⟩ := Option.ne_none_iff_exists'.1 hhalf
        have hword := handWord_current (s := sent s (.downWord ((s.src src).cursor + 4) 15#4 v)) v hc h0
          (classify_pair hx rfl)
        exact (exec_pairArrival_held v hup hx hc).trans (congrArg _ hword.symm)
      · have hstray := StimulusGuard.classify_stray hvoltage hcurrent
        have hword := handWord_monitorStray (s := sent s (.downWord a strb v)) v hc h0 hstray
        exact (StimulusGuard.exec_monitorStray v hup hc h4 h0 hstray).trans (congrArg _ hword.symm)
  · intro off v s _ hlt h
    by_cases hlive : 0x42000 ≤ off ∧ off < 0x42100
    · exact handWord_live v s hlive.1 hlive.2
    · refine handWord_unassigned v s hlt (unassignedOffset_of ?_)
      rcases h with hhigh | htail
      · rcases Nat.lt_or_ge off 0x42000 with hlow | hpass
        · exact .inr (.inl ⟨hhigh, hlow⟩)
        · exact .inl (Nat.le_of_not_lt fun h => hlive ⟨hpass, h⟩)
      · exact .inr (.inr htail)

end Sys2Proof.TransactionPath
end

section
/-! SUPPORT. Read bursts: how a burst is classed and arrives, and the turns in which memory's data and the part's are
returned (R140, R141, R148, R151, R153, R155 to R158). -/

namespace Sys2Proof.TransactionPath

open Sys2Proof Sys2Proof.Machine Sys2Proof.Safety Sys2Proof.MeasurementPlan

/-! ### The class of a read burst (R140, R151) -/

/-- The live area, by the distance of an address from the aperture base. -/
theorem inLiveArea_iff (straps : BitVec 8) (a : Addr) : inLiveArea straps a = true ↔
    0x42000 ≤ (a.toNat : Int) - straps.toNat * 0x100000 ∧ (a.toNat : Int) - straps.toNat * 0x100000 < 0x42100 := by
  unfold inLiveArea
  split
  · next hoff =>
    have hbase := apertureOffset_eq_some.1 hoff
    rw [beq_iff_eq, areaOf_eq_live]
    omega
  · next hnone =>
    have hout := apertureOffset_eq_none.1 hnone
    simp only [Bool.false_eq_true, false_iff]
    omega

/-- The step, configuration and command areas are the aperture's offsets below the live area. -/
theorem areaOf_word_iff (off : Nat) :
    (areaOf off == .step || areaOf off == .config || areaOf off == .command) = true ↔ off < 0x42000 := by
  unfold areaOf
  split_ifs <;> simp <;> omega

/-- The step, configuration and command areas, by the distance of an address from the aperture base. -/
theorem inWordArea_iff (straps : BitVec 8) (a : Addr) : inWordArea straps a = true ↔
    0 ≤ (a.toNat : Int) - straps.toNat * 0x100000 ∧ (a.toNat : Int) - straps.toNat * 0x100000 < 0x42000 := by
  unfold inWordArea
  split
  · next hoff =>
    have hbase := apertureOffset_eq_some.1 hoff
    rw [areaOf_word_iff]
    omega
  · next hnone =>
    have hout := apertureOffset_eq_none.1 hnone
    simp only [Bool.false_eq_true, false_iff]
    omega

/-- A property of some beat of a burst. -/
theorem any_beat_iff (b : Burst) (p : Nat → Bool) :
    (List.range (Burst.beats b)).any p = true ↔ ∃ i, i ≤ b.len.toNat ∧ p i = true := by
  simp [Burst.beats]

/-- A burst covers DEVICE_FLAGS where a beat's lanes reach into its word (R156). -/
theorem coversFlags_iff (straps : BitVec 8) (b : Burst) : Burst.coversFlags straps b = true ↔
    ∃ i, i ≤ b.len.toNat ∧ dwordOf (Burst.beatAddr b i) = apertureAddr straps 0x42000 ∧
      (Burst.lanes b i).extractLsb' 0 4 ≠ 0#4 := by
  unfold Burst.coversFlags
  rw [any_beat_iff]
  simp [lowStrobes]

/-- An ID agrees with MOTION_ID where their masked bits do (R140). -/
theorem agrees_iff (m : MoveWindow) (id : BusId) : MoveWindow.agrees m id = true ↔ id &&& m.mask = m.id &&& m.mask := by
  have hmask : (id ^^^ m.id) &&& m.mask = (id &&& m.mask) ^^^ (m.id &&& m.mask) := by
    ext i hi
    simp [Bool.and_xor_distrib_right]
  unfold MoveWindow.agrees
  rw [beq_iff_eq, hmask, BitVec.xor_eq_zero_iff]

/-- The four conditions of a held read (R140). -/
theorem isHeldRead_iff (s : State) (o : Offer) : s.isHeldRead o = true ↔
    s.holdEngaged = true ∧ (o.burst.addr - s.move.base).toNat < s.move.len.toNat ∧
      (o.id &&& s.move.mask) = (s.move.id &&& s.move.mask) ∧
      ¬ (0 ≤ (o.burst.addr.toNat : Int) - s.apBase.toNat * 0x100000 ∧
        (o.burst.addr.toNat : Int) - s.apBase.toNat * 0x100000 < 0x42100) := by
  have hlive := inLiveArea_iff s.apBase o.burst.addr
  have hword := inWordArea_iff s.apBase o.burst.addr
  have harea : inLiveArea s.apBase o.burst.addr = false ∧ inWordArea s.apBase o.burst.addr = false ↔
      ¬ (0 ≤ (o.burst.addr.toNat : Int) - s.apBase.toNat * 0x100000 ∧
        (o.burst.addr.toNat : Int) - s.apBase.toNat * 0x100000 < 0x42100) := by
    rw [← Bool.not_eq_true, ← Bool.not_eq_true, hlive, hword]
    omega
  rw [← harea, ← agrees_iff]
  simp [State.isHeldRead, MoveWindow.contains, and_assoc]

/-- A burst is live, else held, else forwarded: no held read begins in the step, configuration or command area
(R151). -/
theorem readClass_eq (s : State) (o : Offer) : s.readClass o =
    if Burst.touchesLive s.apBase o.burst then .live else if s.isHeldRead o then .held else .forwarded := by
  have hword : inWordArea s.apBase o.burst.addr = true → s.isHeldRead o = false := by
    intro h
    rw [State.isHeldRead, h, Bool.not_true, Bool.and_false]
  unfold State.readClass
  split
  · rfl
  · split
    · next h => rw [hword h]; rfl
    · rfl

/-! ### Arrival (R148, R155 to R157) -/

section
variable {s : State} (hup : s.resetN = true) (o : Offer)
include hup

/-- No read arrives without room. -/
theorem exec_read_noRoom (h : ¬ s.readRoom = true) : exec (.liveRead o) s = .next s ∧
    exec (.deviceFlagsRead o) s = .next s ∧ exec (.heldRead o) s = .next s ∧
    exec (.forwardedReadArrival o) s = .next s :=
  ⟨(next_whileUp hup).trans (congrArg _ (if_neg fun hr => h hr.2)),
    (next_whileUp hup).trans (congrArg _ (if_neg fun hr => h hr.2.2)),
    (next_whileUp hup).trans (congrArg _ (if_neg fun hr => h hr.2)),
    (next_whileUp hup).trans (congrArg _ (if_neg fun hr => h hr.2))⟩

variable {o} (hroom : s.readRoom = true)
include hroom

theorem exec_liveRead (hclass : s.readClass o = .live) : exec (.liveRead o) s = .next (liveReadArrives o s) :=
  (next_whileUp hup).trans (congrArg _ (if_pos ⟨hclass, hroom⟩))

theorem exec_deviceFlagsRead (hclass : s.readClass o = .live) (hcovers : Burst.coversFlags s.apBase o.burst = true) :
    exec (.deviceFlagsRead o) s = .next (liveReadArrives o s) :=
  (next_whileUp hup).trans (congrArg _ (if_pos ⟨hclass, hcovers, hroom⟩))

theorem exec_heldRead (hclass : s.readClass o = .held) : exec (.heldRead o) s = .next (heldReadArrives o s) :=
  (next_whileUp hup).trans (congrArg _ (if_pos ⟨hclass, hroom⟩))

theorem exec_forwardedReadArrival (hclass : s.readClass o = .forwarded) :
    exec (.forwardedReadArrival o) s = .next (forwardedReadArrives o s) :=
  (next_whileUp hup).trans (congrArg _ (if_pos ⟨hclass, hroom⟩))

end

/-- Settles O47: the room, the class and the cover of a burst each as the statement has them, and the arrival of its
class. -/
theorem readsArriveByTheirClass : Obligations.ReadsArriveByTheirClass := by
  intro o s hup beat offset live covers held values noFlags room
  have hroom : s.readRoom = true ↔ room := readRoom_iff s
  have hlive : Burst.touchesLive s.apBase o.burst = true ↔ live :=
    (any_beat_iff _ _).trans (exists_congr fun i => and_congr_right fun _ => inLiveArea_iff _ _)
  have hcovers : Burst.coversFlags s.apBase o.burst = true ↔ covers := coversFlags_iff _ _
  have hheld : s.isHeldRead o = true ↔ held := isHeldRead_iff s o
  have hclass := readClass_eq s o
  refine ⟨fun hr hl => ?_, fun hr hl hh => ?_, fun hr hl hh => ?_, fun hr => exec_read_noRoom hup o (mt hroom.1 hr)⟩
  · intro u
    rw [if_pos (hlive.2 hl)] at hclass
    refine ⟨fun hno => (exec_liveRead hup (hroom.2 hr) hclass).trans (congrArg _ (if_neg (mt hcovers.1 hno))),
      fun hc => ?_⟩
    have harrives : liveReadArrives o s = { u with flags := noFlags } := if_pos (hcovers.2 hc)
    rw [← harrives]
    exact ⟨exec_liveRead hup (hroom.2 hr) hclass, exec_deviceFlagsRead hup (hroom.2 hr) hclass (hcovers.2 hc)⟩
  · rw [if_neg (mt hlive.1 hl), if_pos (hheld.2 hh)] at hclass
    exact exec_heldRead hup (hroom.2 hr) hclass
  · rw [if_neg (mt hlive.1 hl), if_neg (mt hheld.1 hh)] at hclass
    exact exec_forwardedReadArrival hup (hroom.2 hr) hclass

/-! ### The waiting read (R147, R153) -/

/-- A downstream ID is the upstream one with bit 16 clear (R147). -/
theorem setWidth17_eq (id : BusId) : id.setWidth 17 = 0#1 ++ id := by
  apply BitVec.eq_of_toNat_eq
  have hid := id.isLt
  rw [append_toNat, BitVec.toNat_setWidth]
  simp
  omega

theorem waits_iff (e : ReadEntry) : ReadEntry.waits e = true ↔ e.kind = .forwarded false := beq_iff_eq

/-- The waiting read is given to memory unchanged, and marked so. -/
theorem takeReadAddr_split {s : State} {pre post : List ReadEntry} {e : ReadEntry} (hs : s.reads = pre ++ e :: post)
    (he : e.kind = .forwarded false) (hpre : ∀ d ∈ pre, d.kind ≠ .forwarded false) :
    takeReadAddr s = { s with
      reads := pre ++ { e with kind := .forwarded true } :: post,
      trace := s.trace ++ [.downReadAddr (0#1 ++ e.id) e.burst] } := by
  have hwaits := (waits_iff e).2 he
  have hnone (d : ReadEntry) (hd : d ∈ pre) : ReadEntry.waits d = false :=
    Bool.eq_false_iff.2 (mt (waits_iff d).1 (hpre d hd))
  unfold takeReadAddr
  rw [hs, find_split hwaits hnone]
  dsimp only
  rw [markTaken_split hwaits hnone, setWidth17_eq]
  rfl

/-- Without a waiting read memory is given none. -/
theorem takeReadAddr_none {s : State} (h : ∀ e ∈ s.reads, e.kind ≠ .forwarded false) : takeReadAddr s = s := by
  unfold takeReadAddr
  rw [List.find?_eq_none.2 fun e he => mt (waits_iff e).1 (h e he)]

/-! ### Turns on the read data channel (R157, R158) -/

/-- Whether an entry of the part is ready: no older entry of the list has its ID. -/
theorem partRead_ready_iff (l : List ReadEntry) : (readyRead [] l).isSome = true ↔
    ∃ pre e post, l = pre ++ e :: post ∧ (∀ taken, e.kind ≠ .forwarded taken) ∧ ∀ d, d ∈ pre → d.id ≠ e.id := by
  simp only [readyRead_isSome, byPart_iff, List.not_mem_nil, not_false_eq_true, true_and]

theorem memoryReadTurn_iff (s : State) : s.memoryReadTurn = true ↔
    ¬ (readyRead [] s.reads).isSome = true ∨ s.servedRead = .part := by
  simp [State.memoryReadTurn]

theorem partReadTurn_iff (s : State) (memory : Option BusId) : s.partReadTurn memory = true ↔
    s.servedRead = .memory ∨ ∀ id, memory = some id → ¬ s.memoryReadCounts id = true := by
  cases memory <;> simp [State.partReadTurn, or_comm]

/-- A channel was served last by the part where it was not by memory. -/
theorem served_ne_memory {x : Served} : x ≠ .memory ↔ x = .part := by cases x <;> simp

section
variable {s : State} (hup : s.resetN = true)
include hup

theorem exec_readDataReturn {id : BusId} (data : Beat) (resp : Resp) (last : Bool)
    (hcounts : s.memoryReadCounts id = true) (hturn : s.memoryReadTurn = true) :
    exec (.readDataReturn id data resp last .sinceReset) s = .next (returnReadBeat id data resp last s) :=
  (next_whileUp hup).trans (congrArg _ (if_pos ⟨rfl, hcounts, hturn⟩))

theorem exec_readDataReturn_not {id : BusId} (data : Beat) (resp : Resp) (last : Bool) {issued : Issued}
    (h : ¬ (issued = .sinceReset ∧ s.memoryReadCounts id = true ∧ s.memoryReadTurn = true)) :
    exec (.readDataReturn id data resp last issued) s = .next s :=
  (next_whileUp hup).trans (congrArg _ (if_neg h))

theorem exec_partReadBeatsReturn {e : ReadEntry} {memory : Option BusId} (he : readyRead [] s.reads = some e)
    (hturn : s.partReadTurn memory = true) : exec (.partReadBeatsReturn memory) s = .next (returnPartBeats e s) := by
  refine (next_whileUp hup).trans (congrArg _ ?_)
  rw [he]
  exact if_pos hturn

theorem exec_partReadBeatsReturn_not {memory : Option BusId}
    (h : ¬ ((readyRead [] s.reads).isSome = true ∧ s.partReadTurn memory = true)) :
    exec (.partReadBeatsReturn memory) s = .next s := by
  refine (next_whileUp hup).trans (congrArg _ ?_)
  split
  · next he => exact if_neg fun hturn => h ⟨by rw [he]; rfl, hturn⟩
  · rfl

end

/-- Memory's beat goes upstream unchanged, and the entry leaves with its last beat. -/
theorem returnReadBeat_split {s : State} {pre post : List ReadEntry} {e : ReadEntry} (hs : s.reads = pre ++ e :: post)
    (hid : ∀ d ∈ pre, d.id ≠ e.id) (data : Beat) (resp : Resp) (last : Bool) :
    returnReadBeat e.id data resp last s = { s with
      reads := if last = true then pre ++ post else s.reads, servedRead := .memory,
      trace := s.trace ++ [.upReadBeat e.id data resp last] } := by
  unfold returnReadBeat
  rw [hs, removeRead_split hid]
  rfl

/-- The part's beats go upstream, the last one marked, and their entry leaves. -/
theorem returnPartBeats_split {s : State} {pre post : List ReadEntry} {e : ReadEntry} (hs : s.reads = pre ++ e :: post)
    (hid : ∀ d ∈ pre, d.id ≠ e.id) {vs : List Beat} (hvs : ReadEntry.values e = vs) :
    returnPartBeats e s = { s with
      reads := pre ++ post, servedRead := .part,
      trace := s.trace ++ vs.zipIdx.map fun x => .upReadBeat e.id x.1 .okay (x.2 + 1 == vs.length) } := by
  subst hvs
  unfold returnPartBeats
  rw [hs, removeRead_split hid, readTransfers_eq e.id _ _ 0 (Nat.zero_add _)]

/-- Settles O48: the waiting read by its place in the list, and each return by who awaits it and whose turn it is. -/
theorem readsReturnInOrder : Obligations.ReadsReturnInOrder := by
  intro s hup byPart counts partReady
  have hcounts (id : BusId) : s.memoryReadCounts id = true ↔ counts id := memoryReadCounts_iff s id
  have hready : (readyRead [] s.reads).isSome = true ↔ partReady := partRead_ready_iff s.reads
  have hmemory : s.memoryReadTurn = true ↔ ¬ partReady ∨ s.servedRead = .part := by
    rw [memoryReadTurn_iff, hready]
  have hpart (memory : Option BusId) : s.partReadTurn memory = true ↔
      s.servedRead = .memory ∨ ∀ id, memory = some id → ¬ counts id := by
    simp only [partReadTurn_iff, hcounts]
  refine ⟨fun pre post e hs he hpre => (next_whileUp hup).trans (congrArg _ (takeReadAddr_split hs he hpre)),
    fun h => (next_whileUp hup).trans (congrArg _ (takeReadAddr_none h)), ?_, ?_, ?_, ?_, ?_⟩
  · intro pre post e data resp last hs he hid hturn
    rw [exec_readDataReturn hup data resp last ((hcounts e.id).2 ⟨pre, e, post, hs, rfl, he, hid⟩) (hmemory.2 hturn),
      returnReadBeat_split hs hid]
  · rintro id data resp last (hno | ⟨hr, hserved⟩)
    · exact exec_readDataReturn_not hup data resp last fun h => hno ((hcounts id).1 h.2.1)
    · refine exec_readDataReturn_not hup data resp last fun h => ?_
      rcases hmemory.1 h.2.2 with h | h
      · exact h hr
      · exact served_ne_memory.2 h hserved
  · intro pre post e memory hs he hid holder hturn vs
    have hfound : readyRead [] s.reads = some e := by
      rw [hs]
      exact readyRead_split ((byPart_iff e).2 he) List.not_mem_nil hid fun p q d h1 h2 =>
        .inr (holder p q d h1 ((byPart_iff d).1 h2))
    have hvs : ReadEntry.values e = vs := by
      obtain ⟨id, burst, kind⟩ := e
      cases kind <;> rfl
    rw [exec_partReadBeatsReturn hup hfound ((hpart memory).2 hturn), returnPartBeats_split hs hid hvs]
  · rintro memory (hno | ⟨hserved, id, hid, hc⟩)
    · exact exec_partReadBeatsReturn_not hup fun h => hno (hready.1 h.1)
    · refine exec_partReadBeatsReturn_not hup fun h => ?_
      rcases (hpart memory).1 h.2 with h | h
      · exact served_ne_memory.2 hserved h
      · exact h id hid hc
  · exact fun id data resp last => exec_readDataReturn_not hup data resp last fun h => nomatch h.1

end Sys2Proof.TransactionPath
end

section
/-! SUPPORT. Write bursts upstream: live write bursts, and the turns in which memory's responses and the part's are
returned (R148, R152, R154, R157, R158, R161). -/

namespace Sys2Proof.TransactionPath

open Sys2Proof Sys2Proof.Machine Sys2Proof.Safety Sys2Proof.MeasurementPlan

/-! ### The open write burst (R148, R160) -/

/-- A burst with beats to come behind bursts that have all of theirs: data beats are its own. -/
structure OpenAt (s : State) (pre post : List WriteEntry) (e : WriteEntry) : Prop where
  split  : s.writes = pre ++ e :: post
  before : ∀ d, d ∈ pre → d.burst.len.toNat + 1 ≤ d.arrived
  beats  : e.arrived ≤ e.burst.len.toNat

namespace OpenAt

variable {s : State} {pre post : List WriteEntry} {e : WriteEntry} (h : OpenAt s pre post e)
include h

theorem not_complete : WriteEntry.complete e = false :=
  Bool.eq_false_iff.2 fun hc => absurd ((complete_iff e).1 hc) (Nat.not_le_of_lt (Nat.lt_succ_of_le h.beats))

theorem openWrite_eq : s.openWrite = some e := by
  unfold State.openWrite
  rw [h.split]
  exact find_split (by rw [h.not_complete]; rfl) fun d hd => by rw [(complete_iff d).2 (h.before d hd)]; rfl

theorem updateOpen_eq (f : WriteEntry → WriteEntry) : updateOpen f s.writes = pre ++ f e :: post := by
  rw [h.split]
  exact updateOpen_split h.not_complete fun d hd => (complete_iff d).2 (h.before d hd)

end OpenAt

/-! ### Live write bursts (R154) -/

section
variable {s : State} (hup : s.resetN = true)
include hup

/-- The address of a burst that reaches the live area is accepted where the write list has room. -/
theorem exec_liveWrite_address (o : Offer) (hroom : s.writes.length < 32)
    (hlive : Burst.touchesLive s.apBase o.burst = true) :
    exec (.liveWrite (.address o)) s = .next (addWrite o (.live false) s) := by
  refine (next_whileUp hup).trans (congrArg _ (if_pos ?_))
  rw [hlive, Bool.true_and]
  exact decide_eq_true hroom

/-- A data beat of the open burst, where that is a live one. -/
theorem exec_liveWrite_beat {pre post : List WriteEntry} {e : WriteEntry} {flagged : Bool} (hopen : OpenAt s pre post e)
    (hkind : e.kind = .live flagged) (data : Beat) (strb : BitVec 8) :
    exec (.liveWrite (.beat data strb)) s = .next (liveBeatArrives e strb s) := by
  refine (next_whileUp hup).trans (congrArg _ ?_)
  unfold liveWriteEvent
  dsimp only
  rw [hopen.openWrite_eq]
  exact if_pos ((isLive_iff e).2 ⟨flagged, hkind⟩)

end

section
variable {s : State} {pre post : List WriteEntry} {e : WriteEntry} (hopen : OpenAt s pre post e) {strb : BitVec 8}
include hopen

/-- The first present word in the live area raises misuse, and the burst remembers it. -/
theorem liveBeatArrives_raises (hkind : e.kind = .live false) (hpresent : s.liveWordPresent e strb = true) :
    liveBeatArrives e strb s = { s with
      writes := pre ++ { e with arrived := e.arrived + 1, kind := .live true } :: post,
      flags := { s.flags with apertureMisuse := true } } := by
  unfold liveBeatArrives
  rw [if_pos (by rw [Bool.and_eq_true, beq_iff_eq]; exact ⟨hpresent, hkind⟩), hopen.updateOpen_eq]
  rfl

/-- Any other beat of a live burst only counts. -/
theorem liveBeatArrives_counts (h : ¬ (s.liveWordPresent e strb = true ∧ e.kind = .live false)) :
    liveBeatArrives e strb s = { s with writes := pre ++ { e with arrived := e.arrived + 1 } :: post } := by
  unfold liveBeatArrives
  rw [if_neg (by rwa [Bool.and_eq_true, beq_iff_eq]), hopen.updateOpen_eq]
  rfl

end

/-- Settles O49: the address joins the list, and the beat's burst has raised misuse already, raises it now, or does
not. -/
theorem liveWritesOnlyRaiseMisuse : Obligations.LiveWritesOnlyRaiseMisuse := by
  intro s hup
  refine ⟨fun o hroom hlive => exec_liveWrite_address hup o hroom hlive, ?_⟩
  intro pre post e flagged data strb hs hbefore hbeats hkind present
  have hopen : OpenAt s pre post e := ⟨hs, hbefore, hbeats⟩
  have hpresent : s.liveWordPresent e strb = true ↔ present := by
    simp [State.liveWordPresent, WriteEntry.enabled, present]
  rw [exec_liveWrite_beat hup hopen hkind]
  refine ⟨fun hp => congrArg _ ?_, fun hp => congrArg _ (liveBeatArrives_counts hopen fun h => hp (hpresent.1 h.1))⟩
  cases flagged with
  | false => exact liveBeatArrives_raises hopen hkind (hpresent.2 hp)
  | true =>
    rw [liveBeatArrives_counts hopen (by rw [hkind]; exact fun h => nomatch h.2), ← hkind]
    rfl

/-! ### Turns on the write response channel (R157, R158) -/

/-- Whether a LIVE entry is ready: its data have arrived and no older entry of the list has its ID. -/
theorem partWrite_ready_iff (l : List WriteEntry) : (readyWrite [] l).isSome = true ↔
    ∃ pre e post, l = pre ++ e :: post ∧ (∃ flagged, e.kind = .live flagged) ∧
      e.burst.len.toNat + 1 ≤ e.arrived ∧ ∀ d, d ∈ pre → d.id ≠ e.id := by
  simp only [readyWrite_isSome, isLive_iff, complete_iff, List.not_mem_nil, not_false_eq_true, true_and]

theorem memoryRespTurn_iff (s : State) : s.memoryRespTurn = true ↔
    ¬ (readyWrite [] s.writes).isSome = true ∨ s.servedResp = .part := by
  simp [State.memoryRespTurn]

theorem partRespTurn_iff (s : State) (memory : Option BusId) : s.partRespTurn memory = true ↔
    s.servedResp = .memory ∨ ∀ id, memory = some id → ¬ s.memoryRespCounts id = true := by
  cases memory <;> simp [State.partRespTurn, or_comm]

section
variable {s : State} (hup : s.resetN = true)
include hup

theorem exec_forwardedWriteResponse {id : BusId} (resp : Resp) (hcounts : s.memoryRespCounts id = true)
    (hturn : s.memoryRespTurn = true) :
    exec (.forwardedWriteResponse id resp .sinceReset) s = .next (returnResponse id resp .memory s) :=
  (next_whileUp hup).trans (congrArg _ (if_pos ⟨rfl, hcounts, hturn⟩))

theorem exec_forwardedWriteResponse_not {id : BusId} (resp : Resp) {issued : Issued}
    (h : ¬ (issued = .sinceReset ∧ s.memoryRespCounts id = true ∧ s.memoryRespTurn = true)) :
    exec (.forwardedWriteResponse id resp issued) s = .next s :=
  (next_whileUp hup).trans (congrArg _ (if_neg h))

theorem exec_liveWriteResponse {e : WriteEntry} {memory : Option BusId} (he : readyWrite [] s.writes = some e)
    (hturn : s.partRespTurn memory = true) :
    exec (.liveWriteResponse memory) s = .next (returnResponse e.id .okay .part s) := by
  refine (next_whileUp hup).trans (congrArg _ ?_)
  rw [he]
  exact if_pos hturn

theorem exec_liveWriteResponse_not {memory : Option BusId}
    (h : ¬ ((readyWrite [] s.writes).isSome = true ∧ s.partRespTurn memory = true)) :
    exec (.liveWriteResponse memory) s = .next s := by
  refine (next_whileUp hup).trans (congrArg _ ?_)
  split
  · next he => exact if_neg fun hturn => h ⟨by rw [he]; rfl, hturn⟩
  · rfl

end

/-- A response goes upstream, and its entry leaves the list. -/
theorem returnResponse_split {s : State} {pre post : List WriteEntry} {e : WriteEntry}
    (hs : s.writes = pre ++ e :: post) (hid : ∀ d ∈ pre, d.id ≠ e.id) (resp : Resp) (who : Served) :
    returnResponse e.id resp who s = { s with
      writes := pre ++ post, servedResp := who, trace := s.trace ++ [.upWriteResp e.id resp] } := by
  unfold returnResponse
  rw [hs, removeWrite_split hid]
  rfl

/-- Settles O50: each response by who awaits it and whose turn it is. -/
theorem writeResponsesReturnInOrder : Obligations.WriteResponsesReturnInOrder := by
  intro s hup isLive complete counts partReady
  have hcounts (id : BusId) : s.memoryRespCounts id = true ↔ counts id := memoryRespCounts_iff s id
  have hready : (readyWrite [] s.writes).isSome = true ↔ partReady := partWrite_ready_iff s.writes
  have hmemory : s.memoryRespTurn = true ↔ ¬ partReady ∨ s.servedResp = .part := by
    rw [memoryRespTurn_iff, hready]
  have hpart (memory : Option BusId) : s.partRespTurn memory = true ↔
      s.servedResp = .memory ∨ ∀ id, memory = some id → ¬ counts id := by
    simp only [partRespTurn_iff, hcounts]
  refine ⟨?_, ?_, ?_, ?_, ?_⟩
  · intro pre post e resp hs he hc hid hturn
    rw [exec_forwardedWriteResponse hup resp ((hcounts e.id).2 ⟨pre, e, post, hs, rfl, he, hc, hid⟩)
      (hmemory.2 hturn), returnResponse_split hs hid]
  · rintro id resp (hno | ⟨hr, hserved⟩)
    · exact exec_forwardedWriteResponse_not hup resp fun h => hno ((hcounts id).1 h.2.1)
    · refine exec_forwardedWriteResponse_not hup resp fun h => ?_
      rcases hmemory.1 h.2.2 with h | h
      · exact h hr
      · exact served_ne_memory.2 h hserved
  · intro pre post e memory hs he hc hid holder hturn
    have hfound : readyWrite [] s.writes = some e := by
      rw [hs]
      exact readyWrite_split ((isLive_iff e).2 he) ((complete_iff e).2 hc) List.not_mem_nil hid fun p q d h1 h2 h3 =>
        .inr (holder p q d h1 ((isLive_iff d).1 h2) ((complete_iff d).1 h3))
    rw [exec_liveWriteResponse hup hfound ((hpart memory).2 hturn), returnResponse_split hs hid]
  · rintro memory (hno | ⟨hserved, id, hid, hc⟩)
    · exact exec_liveWriteResponse_not hup fun h => hno (hready.1 h.1)
    · refine exec_liveWriteResponse_not hup fun h => ?_
      rcases (hpart memory).1 h.2 with h | h
      · exact served_ne_memory.2 hserved h
      · exact h id hid hc
  · exact fun id resp => exec_forwardedWriteResponse_not hup resp fun h => nomatch h.1

end Sys2Proof.TransactionPath
end

section
/-! SUPPORT. Write bursts downstream: the arbiter of the write address channel, the writer's data in grant order, and
the data beats of forwarded bursts (R113, R147, R148, R150, R152, R154, R159, R160). -/

namespace Sys2Proof.TransactionPath

open Sys2Proof Sys2Proof.Machine Sys2Proof.Safety Sys2Proof.MeasurementPlan

/-! ### The writer's data (R160) -/

/-- The writer's data go at once where nothing granted before them has data to send, the last beat marked. -/
theorem sendWriterData_sends {s : State} {f : Flight} (hf : s.writer.flight = some f) (hphase : f.phase = .data 0) :
    sendWriterData s = { s with
      writer := { s.writer with flight := some { f with phase := .response } },
      trace := s.trace ++ f.beats.zipIdx.map fun x => .downWriteBeat x.1.1 x.1.2 (x.2 + 1 == f.beats.length) } := by
  unfold sendWriterData
  rw [hf]
  dsimp only
  rw [hphase, beatTransfers_eq _ f.beats 0 (Nat.zero_add _)]

/-- The writer's data wait in any other phase. -/
theorem sendWriterData_waits {s : State} (h : ∀ f, s.writer.flight = some f → f.phase ≠ .data 0) :
    sendWriterData s = s := by
  unfold sendWriterData
  split
  · next f hf =>
    split
    · next hphase => exact absurd hphase (h f hf)
    · rfl
    · rfl
    · rfl
  · rfl

/-- Writer's data that wait behind forwarded bursts have one fewer ahead. -/
theorem forwardedDataDone_data {s : State} {f : Flight} {n : Nat} (hf : s.writer.flight = some f)
    (hphase : f.phase = .data (n + 1)) : forwardedDataDone s =
      sendWriterData { s with writer := { s.writer with flight := some { f with phase := .data n } } } := by
  unfold forwardedDataDone
  rw [hf, Option.map_some, Flight.oneFewerAhead, hphase]

/-- Without writer's data that wait, a burst's last beat changes nothing of the writer. -/
theorem forwardedDataDone_none {s : State} (h : ∀ f, s.writer.flight = some f → ∀ n, f.phase ≠ .data n) :
    forwardedDataDone s = s := by
  have hsame : s.writer.flight.map Flight.oneFewerAhead = s.writer.flight := by
    cases hf : s.writer.flight with
    | none => rfl
    | some f =>
      rw [Option.map_some, Flight.oneFewerAhead]
      split
      · next hphase => exact absurd hphase (h f hf _)
      all_goals rfl
  unfold forwardedDataDone
  rw [hsame]
  exact sendWriterData_waits fun f hf => h f hf 0

/-! ### The arbiter (R159) -/

/-- The forwarded stream is granted where the writer does not wait or was granted last. -/
theorem arbitrate_forwarded {writer : Bool} {last : Requester} (h : writer = false ∨ last = .writer) :
    arbitrate true writer last = some .forwarded := by
  rcases h with rfl | rfl
  · rfl
  · cases writer <;> rfl

/-- The writer is granted where the forwarded stream does not wait or was granted last. -/
theorem arbitrate_writer {forwarded : Bool} {last : Requester} (h : forwarded = false ∨ last = .forwarded) :
    arbitrate forwarded true last = some .writer := by
  rcases h with rfl | rfl
  · rfl
  · cases forwarded <;> rfl

/-- The writer waits with a request, but for a fresh one made after the grant. -/
theorem writerWaits_iff (s : State) (before : Bool) : s.writerWaits before = true ↔ ∃ f, s.writer.flight = some f ∧
    ∃ fresh, f.phase = .request fresh ∧ ¬ (before = true ∧ fresh = true) := by
  unfold State.writerWaits
  cases s.writer.flight with
  | none => simp
  | some f =>
    cases hphase : f.phase with
    | request fresh => cases fresh <;> simp [hphase]
    | data n => simp [hphase]
    | response => simp [hphase]

theorem forwardedWaits_iff (s : State) (x : Offer) : s.forwardedWaits x = true ↔
    Burst.touchesLive s.apBase x.burst = false ∧ s.writes.length < 32 := by
  rw [State.forwardedWaits, Bool.and_eq_true, Bool.not_eq_true']
  exact and_congr_right fun _ => decide_eq_true_iff

section
variable {s : State} {o : Option Offer} {before : Bool}

/-- The forwarded stream's turn. -/
theorem completeGrant_forwarded {x : Offer} (ho : o = some x) (hx : s.forwardedWaits x = true)
    (hturn : s.writerWaits before = false ∨ s.lastGrant = .writer) :
    completeGrant o before s = grantForwarded x s := by
  subst ho
  unfold completeGrant
  dsimp only
  rw [hx, arbitrate_forwarded hturn]

/-- The writer's turn. -/
theorem completeGrant_writer {f : Flight} (hf : s.writer.flight = some f) (hwaits : s.writerWaits before = true)
    (hturn : (∀ x, o = some x → s.forwardedWaits x = false) ∨ s.lastGrant = .forwarded) :
    completeGrant o before s = grantWriter f s := by
  unfold completeGrant
  dsimp only
  rw [hwaits, arbitrate_writer (hturn.imp_left fun h => ?_), hf]
  cases o with
  | none => rfl
  | some x => exact h x rfl

/-- No grant where neither waits. -/
theorem completeGrant_none (hforwarded : ∀ x, o = some x → s.forwardedWaits x = false)
    (hwriter : s.writerWaits before = false) : completeGrant o before s = s := by
  unfold completeGrant
  dsimp only
  rw [hwriter]
  cases o with
  | none => rfl
  | some x =>
    dsimp only
    rw [hforwarded x rfl]
    rfl

end

/-! ### What a grant does (R147, R152, R159, R160) -/

/-- A granted forwarded burst joins the list and goes downstream unchanged. -/
theorem grantForwarded_eq (x : Offer) (s : State) : grantForwarded x s = { s with
    lastGrant := .forwarded, writer := { s.writer with flight := s.writer.flight.map Flight.passedOver },
    writes := s.writes ++ [{ id := x.id, burst := x.burst, kind := .forwarded, arrived := 0 }],
    trace := s.trace ++ [.downWriteAddr (0#1 ++ x.id) x.burst] } := by
  unfold grantForwarded
  rw [setWidth17_eq]
  rfl

/-- The forwarded bursts with beats to come. -/
theorem openForwarded_eq (s : State) : s.openForwarded =
    (s.writes.filter fun e => decide (e.kind = .forwarded ∧ e.arrived ≤ e.burst.len.toNat)).length := by
  unfold State.openForwarded
  congr 2
  funext e
  rw [Bool.eq_iff_iff, decide_eq_true_iff, Bool.and_eq_true, Bool.not_eq_true', Bool.not_eq_true',
    ← Bool.not_eq_true, ← Bool.not_eq_true, isLive_iff, complete_iff]
  refine and_congr ?_ (by omega)
  cases e.kind <;> simp

/-- The attributes of a burst of the writer that the rules fix (R113, R114, R116). -/
theorem burst_shape (f : Flight) (k : Nat) :
    (Flight.burst f k).addr = f.addr ∧ (Flight.burst f k).attrs.lock = false ∧
      (f.kind = .record → (Flight.burst f k).len = 1#8 ∧ (Flight.burst f k).size = 3 ∧
        (Flight.burst f k).type = .incr) ∧
      (f.kind = .producerWord → (Flight.burst f k).len = 0#8) := by
  unfold Flight.burst
  cases f.kind with
  | record => exact ⟨rfl, rfl, fun _ => ⟨rfl, rfl, rfl⟩, nofun⟩
  | producerWord => exact ⟨rfl, rfl, nofun, fun _ => rfl⟩

/-- A granted writer's data follow its address at once where no forwarded burst is ahead. -/
theorem grantWriter_sends {f : Flight} {s : State} (h : s.openForwarded = 0) : grantWriter f s = { s with
    lastGrant := .writer, freeCount := s.freeCount + 1,
    writer := { s.writer with flight := some { f with phase := .response } },
    trace := s.trace ++ .downWriteAddr 0x10000#17 (Flight.burst f s.freeCount) ::
      f.beats.zipIdx.map fun x => .downWriteBeat x.1.1 x.1.2 (x.2 + 1 == f.beats.length) } := by
  unfold grantWriter
  rw [h, sendWriterData_sends (f := { f with phase := .data 0 }) rfl rfl, emit_trace, List.append_assoc]
  rfl

/-- A granted writer's data wait for the forwarded bursts ahead. -/
theorem grantWriter_waits {f : Flight} {s : State} (h : 1 ≤ s.openForwarded) : grantWriter f s = { s with
    lastGrant := .writer, freeCount := s.freeCount + 1,
    writer := { s.writer with flight := some { f with phase := .data s.openForwarded } },
    trace := s.trace ++ [.downWriteAddr 0x10000#17 (Flight.burst f s.freeCount)] } := by
  unfold grantWriter
  rw [sendWriterData_waits]
  · rfl
  · rintro g hg
    cases hg
    intro hphase
    have hzero := WritePhase.data.inj hphase
    omega

/-- Settles O51: who waits as the statement has it, whose turn it is, and what the grant of each does. -/
theorem theWriteArbiterAlternates : Obligations.TheWriteArbiterAlternates := by
  intro s o before hup offered requests passedOver ahead
  have hforwarded (x : Offer) : o = some x ∧ s.forwardedWaits x = true ↔ offered x := by
    rw [forwardedWaits_iff]
  have hwaits : s.writerWaits before = true ↔ ∃ f, requests f := writerWaits_iff s before
  have hnone (h : ∀ x, ¬ offered x) (x : Offer) (hx : o = some x) : s.forwardedWaits x = false :=
    Bool.eq_false_iff.2 fun hw => h x ((hforwarded x).1 ⟨hx, hw⟩)
  have hidle (h : ∀ f, ¬ requests f) : s.writerWaits before = false :=
    Bool.eq_false_iff.2 fun hw => (hwaits.1 hw).elim h
  have hpassed : s.writer.flight.map Flight.passedOver = passedOver := by
    refine congrArg (fun g => s.writer.flight.map g) (funext fun f => ?_)
    obtain ⟨kind, addr, beats, phase⟩ := f
    cases phase <;> rfl
  have hahead : s.openForwarded = ahead := openForwarded_eq s
  refine ⟨fun x hx hturn => ?_, fun f hf hturn => ?_, fun hx hf =>
    (next_whileUp hup).trans (congrArg _ (completeGrant_none (hnone hx) (hidle hf)))⟩
  · obtain ⟨ho, hw⟩ := (hforwarded x).2 hx
    rw [← hpassed, ← grantForwarded_eq]
    exact (next_whileUp hup).trans (congrArg _ (completeGrant_forwarded ho hw (hturn.imp_left hidle)))
  · have hgrant : exec (.downstreamWriteGrant o before) s = .next (grantWriter f s) :=
      (next_whileUp hup).trans
        (congrArg _ (completeGrant_writer hf.1 (hwaits.2 ⟨f, hf⟩) (hturn.imp_left hnone)))
    obtain ⟨haddr, hlock, hrecord, hproducer⟩ := burst_shape f s.freeCount
    refine ⟨Flight.burst f s.freeCount, haddr, hlock, hrecord, hproducer, fun h0 => ?_, fun h1 => ?_⟩
    · rw [hgrant, grantWriter_sends (hahead.trans h0)]
    · rw [hgrant, grantWriter_waits (hahead ▸ h1), hahead]

/-! ### Data beats of forwarded bursts (R150, R152, R160) -/

/-- The state with a data beat of a forwarded burst passed on and counted. -/
def beatPassed (s : State) (pre post : List WriteEntry) (e : WriteEntry) (data : Beat) (strb : BitVec 8) : State :=
  { s with
    writes := pre ++ { e with arrived := e.arrived + 1 } :: post,
    trace := s.trace ++ [.downWriteBeat data strb (e.arrived == e.burst.len.toNat)] }

theorem nextIsLast_eq (e : WriteEntry) : WriteEntry.nextIsLast e = (e.arrived == e.burst.len.toNat) := by
  simp [WriteEntry.nextIsLast, Burst.beats]

section
variable {s : State} {pre post : List WriteEntry} {e : WriteEntry} (hup : s.resetN = true)
  (hopen : OpenAt s pre post e) (hkind : e.kind = .forwarded) (data : Beat) (strb : BitVec 8)
include hup hopen hkind

/-- A data beat of the open burst, where that is a forwarded one, is passed on; after the last one the writer's data
move up; then the beat's words are handed on. -/
theorem exec_forwardedWriteBeat : exec (.forwardedWriteBeat data strb) s = .next
    (handBeat (dwordOf (Burst.beatAddr e.burst e.arrived)) (WriteEntry.enabled e strb) data
      (if e.arrived = e.burst.len.toNat then forwardedDataDone (beatPassed s pre post e data strb)
        else beatPassed s pre post e data strb)) := by
  have hlive : WriteEntry.isLive e = false :=
    Bool.eq_false_iff.2 fun h => by
      obtain ⟨flagged, hflagged⟩ := (isLive_iff e).1 h
      rw [hkind] at hflagged
      cases hflagged
  refine (next_whileUp hup).trans (congrArg _ ?_)
  rw [hopen.openWrite_eq]
  dsimp only
  rw [hlive, if_neg Bool.false_ne_true]
  unfold forwardBeat
  rw [hopen.updateOpen_eq, nextIsLast_eq]
  simp only [beq_iff_eq]
  rfl

end

/-- Settles O52: the writer's data move up after a last beat by their phase, and the beat's words are handed on. -/
theorem forwardedBeatsHandTheirWords : Obligations.ForwardedBeatsHandTheirWords := by
  intro pre post e data strb s hup hs hbefore hbeats hkind a m u hands
  have hexec := exec_forwardedWriteBeat hup ⟨hs, hbefore, hbeats⟩ hkind data strb
  have hlast (v : State) (hl : e.arrived = e.burst.len.toNat) (hv : forwardedDataDone u = v) : hands v := by
    rw [if_pos hl] at hexec
    subst hv
    exact hexec
  refine ⟨fun hl => ?_, fun hl hnone => hlast u hl (forwardedDataDone_none hnone), fun f n hl hf hphase => ?_⟩
  · rw [if_neg (Nat.ne_of_lt hl)] at hexec
    exact hexec
  · have hdone := forwardedDataDone_data (s := u) hf hphase
    refine ⟨fun hn => hlast _ hl (hdone.trans (sendWriterData_waits ?_)), fun hn => hlast _ hl (hdone.trans ?_)⟩
    · rintro g hg hphase'
      cases hg
      cases hphase'
      omega
    · subst hn
      exact sendWriterData_sends (f := { f with phase := .data 0 }) rfl rfl

end Sys2Proof.TransactionPath
end

section
/-! SUPPORT. The queue of waiting commands: no word of a beat and no other event of the part changes it, and every
command answers a next state (R165; log 17). -/

namespace Sys2Proof.TransactionPath

open Sys2Proof Sys2Proof.Machine Sys2Proof.Safety Sys2Proof.StimulusGuard

/-! ### Operations under a condition -/

theorem EngineFrame_pending {s t : State} (h : EngineFrame s t) : t.pending = s.pending := h.fields.1

theorem ite_pending {c : Prop} [Decidable c] {s t u : State} (ht : t.pending = s.pending)
    (hu : u.pending = s.pending) : (if c then t else u).pending = s.pending := by
  split
  · exact ht
  · exact hu

theorem whileUp_pending {f : State → State} {s : State} (h : (f s).pending = s.pending) :
    (whileUp f s).pending = s.pending := ite_pending h rfl

/-! ### Words of a beat leave the queue -/

theorem beginWrite_pending (s : State) : (beginWrite s).pending = s.pending := EngineFrame_pending (beginWrite_frame s)

theorem ringEnable_pending (s : State) : (ringEnable s).pending = s.pending :=
  ite_pending (ite_pending (beginWrite_pending _) rfl) rfl

theorem ringDisable_pending (s : State) : (ringDisable s).pending = s.pending := by
  unfold ringDisable
  split <;> rfl

theorem takeConfigWord_pending (w : ConfigWord) (v : Word) (s : State) :
    (takeConfigWord w v s).pending = s.pending := by
  cases w with
  | timebaseDiv => exact ite_pending rfl rfl
  | learnTarget => exact ite_pending rfl rfl
  | rangeShift r => exact ite_pending rfl rfl
  | sampleBase ch => exact ite_pending rfl rfl
  | sampleLen ch => exact ite_pending rfl rfl
  | ringBase => exact ite_pending rfl rfl
  | ringSize => exact ite_pending rfl rfl
  | ringProdAddr => exact ite_pending rfl rfl
  | ringCtrl => exact ite_pending (ringEnable_pending s) (ringDisable_pending s)
  | bandT i => fin_cases i <;> rfl
  | _ => rfl

theorem takeDevCmd_pending (v : Word) (s : State) : (takeDevCmd v s).pending = s.pending := by
  unfold takeDevCmd
  split
  · exact ite_pending rfl (ite_pending rfl rfl)
  · exact ite_pending rfl (ite_pending rfl rfl)
  · exact ite_pending rfl (ite_pending rfl rfl)
  · exact ite_pending rfl (ite_pending rfl (ite_pending rfl rfl))
  · exact ite_pending rfl rfl
  · exact ite_pending rfl rfl

theorem takeCommandWord_pending (w : CommandWord) (v : Word) (s : State) :
    (takeCommandWord w v s).pending = s.pending := by
  cases w with
  | chCmd ch => exact EngineFrame_pending (channelCommand_frame ch v s)
  | devCmd => exact takeDevCmd_pending v s
  | consumer => exact ite_pending (beginWrite_pending _) rfl
  | temp => exact ite_pending rfl rfl
  | inspect => rfl

theorem takeSample_pending (ch : ChanNo) (w : Word) (s : State) : (takeSample ch w s).pending = s.pending :=
  EngineFrame_pending (s := s.setTap ch _) (engineSample_frame ch w _)

theorem takeSampleStray_pending (ch : ChanNo) (a : Addr) (s : State) : (takeSampleStray ch a s).pending = s.pending :=
  EngineFrame_pending (s := s.setTap ch _) (engineStray_frame ch _)

theorem tripCheck_pending (src : SrcNo) (found : TripSet) (s : State) :
    (tripCheck src found s).pending = s.pending := by
  unfold tripCheck
  refine ite_pending ?_ rfl
  rw [EngineFrame_pending (endBoundRuns_frame src _)]
  rfl

theorem takeCurrent_pending (src : SrcNo) (v i : Word) (s : State) : (takeCurrent src v i s).pending = s.pending := by
  rw [takeCurrent_eq, EngineFrame_pending (meterPair_frame src i _), tripCheck_pending]
  rfl

theorem apertureWord_pending (strb : BitVec 4) {f : State → State} {s : State} (h : (f s).pending = s.pending) :
    (apertureWord strb f s).pending = s.pending := ite_pending rfl (ite_pending h rfl)

/-- No word of a beat changes the queue. -/
theorem handWord_pending (a : Addr) (strb : BitVec 4) (v : Word) (s : State) :
    (handWord a strb v s).pending = s.pending := by
  unfold handWord
  split
  · rfl
  · exact apertureWord_pending _ (ite_pending rfl (ite_pending (ite_pending rfl rfl) rfl))
  · refine apertureWord_pending _ ?_
    unfold takeConfigOffset
    split
    · exact takeConfigWord_pending _ v s
    · rfl
  · refine apertureWord_pending _ ?_
    unfold takeCommandOffset
    split
    · exact takeCommandWord_pending _ v s
    · rfl
  · rfl
  · exact ite_pending rfl (ite_pending (takeSample_pending _ v s) (takeSampleStray_pending _ a s))
  · refine ite_pending rfl ?_
    split
    · rfl
    · exact takeCurrent_pending _ _ v s
    · rfl
  · rfl

/-! ### Other events leave the queue -/

theorem countUp_pending (s : State) : (countUp s).pending = s.pending := by
  rw [countUp_eq]
  dsimp only
  exact EngineFrame_pending (takeDueExpiries_frame s)

theorem publish_pending (s : State) : (publish s).pending = s.pending := by
  unfold publish
  split
  · rfl
  · next head rest _ =>
    rw [beginWrite_pending]
    change (release head (VerdictRing.advanced s rest)).pending = (VerdictRing.advanced s rest).pending
    rcases release_frame head (VerdictRing.advanced s rest) with hframe | ⟨u, hframe, hu⟩
    · exact EngineFrame_pending hframe
    · rw [hu]
      exact (EngineFrame_pending hframe :)

theorem sendWriterData_pending (s : State) : (sendWriterData s).pending = s.pending := by
  unfold sendWriterData
  split
  · split <;> rfl
  · rfl

theorem forwardBeat_pending (e : WriteEntry) (d : Beat) (m : BitVec 8) (s : State) :
    (forwardBeat e d m s).pending = s.pending := by
  unfold forwardBeat handBeat
  dsimp only
  rw [handWord_pending, handWord_pending]
  exact ite_pending (sendWriterData_pending _) rfl

theorem completeGrant_pending (o : Option Offer) (before : Bool) (s : State) :
    (completeGrant o before s).pending = s.pending := by
  unfold completeGrant
  dsimp only
  split
  · rfl
  · exact sendWriterData_pending _
  · rfl

theorem liveWriteEvent_pending (event : LiveWrite) (s : State) : (liveWriteEvent event s).pending = s.pending := by
  unfold liveWriteEvent
  split
  · exact ite_pending rfl rfl
  · split
    · exact ite_pending (ite_pending rfl rfl) rfl
    · rfl

/-! ### Commands -/

/-- A command that writes no one word answers a next state with the queue as it was. -/
theorem exec_event_pending {c : Instr} (hc : wordWritten c = none) (s : State) :
    ∃ t, exec c s = .next t ∧ t.pending = s.pending := by
  cases c with
  | hardwareReset => exact ⟨_, rfl, rfl⟩
  | resetNRelease straps => exact ⟨_, rfl, ite_pending rfl rfl⟩
  | timebaseIncrement => exact ⟨_, rfl, whileUp_pending (countUp_pending s)⟩
  | deadlineExpiry ch => exact ⟨_, rfl, whileUp_pending (EngineFrame_pending (takeExpiry_frame ch s))⟩
  | partialStrobeWord off m v => exact ⟨_, rfl, whileUp_pending (ite_pending rfl rfl)⟩
  | unassignedApertureWrite off v => exact ⟨_, rfl, whileUp_pending (ite_pending rfl rfl)⟩
  | chCmdUnknown ch op arg => exact ⟨_, rfl, ite_pending (whileUp_pending rfl) rfl⟩
  | devCmdUnknown op arg => exact ⟨_, rfl, ite_pending (whileUp_pending (ite_pending rfl rfl)) rfl⟩
  | planResetCompletion resp issued => exact ⟨_, rfl, whileUp_pending (ite_pending rfl rfl)⟩
  | liveWrite event => exact ⟨_, rfl, whileUp_pending (liveWriteEvent_pending event s)⟩
  | liveWriteResponse memory =>
    refine ⟨_, rfl, whileUp_pending ?_⟩
    split
    · exact ite_pending rfl rfl
    · rfl
  | liveRead o => exact ⟨_, rfl, whileUp_pending (ite_pending (ite_pending rfl rfl) rfl)⟩
  | deviceFlagsRead o => exact ⟨_, rfl, whileUp_pending (ite_pending (ite_pending rfl rfl) rfl)⟩
  | heldRead o => exact ⟨_, rfl, whileUp_pending (ite_pending rfl rfl)⟩
  | forwardedReadArrival o => exact ⟨_, rfl, whileUp_pending (ite_pending rfl rfl)⟩
  | forwardedRead =>
    refine ⟨_, rfl, whileUp_pending ?_⟩
    unfold takeReadAddr
    split <;> rfl
  | readDataReturn id d r l issued => exact ⟨_, rfl, whileUp_pending (ite_pending rfl rfl)⟩
  | partReadBeatsReturn memory =>
    refine ⟨_, rfl, whileUp_pending ?_⟩
    split
    · exact ite_pending rfl rfl
    · rfl
  | forwardedWriteResponse id r issued => exact ⟨_, rfl, whileUp_pending (ite_pending rfl rfl)⟩
  | downstreamWriteGrant o before => exact ⟨_, rfl, whileUp_pending (completeGrant_pending o before s)⟩
  | forwardedWriteBeat d m =>
    refine ⟨_, rfl, whileUp_pending ?_⟩
    split
    · exact ite_pending rfl (forwardBeat_pending _ d m s)
    · rfl
  | inSequenceSample ch v => exact ⟨_, rfl, whileUp_pending (ite_pending (takeSample_pending ch v _) rfl)⟩
  | sampleStray ch a m v => exact ⟨_, rfl, whileUp_pending (ite_pending (takeSampleStray_pending ch a _) rfl)⟩
  | voltageTaken src v => exact ⟨_, rfl, whileUp_pending (ite_pending rfl rfl)⟩
  | pairArrival src v =>
    refine ⟨_, rfl, whileUp_pending ?_⟩
    dsimp only
    split
    · exact ite_pending (takeCurrent_pending src _ v _) rfl
    · rfl
  | monitorStray src a m v => exact ⟨_, rfl, whileUp_pending (ite_pending rfl rfl)⟩
  | chargeExcess ch i =>
    exact ⟨_, rfl, whileUp_pending (ite_pending (EngineFrame_pending (meterRun_frame _ i ch s)) rfl)⟩
  | recordWriteBegin => exact ⟨_, rfl, whileUp_pending (beginWrite_pending s)⟩
  | recordWriteOkay issued => exact ⟨_, rfl, whileUp_pending (ite_pending (ite_pending rfl rfl) rfl)⟩
  | publication issued =>
    exact ⟨_, rfl, whileUp_pending (ite_pending (ite_pending rfl (publish_pending s)) rfl)⟩
  | writeErrorResponse r issued =>
    exact ⟨_, rfl, whileUp_pending (ite_pending (ite_pending rfl rfl) (ite_pending (ite_pending rfl rfl) rfl))⟩
  | _ => cases hc

/-- While RESET_N is low no command but those of the reset line does anything (R165; log 17). -/
theorem exec_down {c : Instr} (hc : ofResetLine c = false) {s : State} (hdown : s.resetN = false) :
    exec c s = .next s := by
  obtain ⟨f, hexec, -⟩ := actsWhileUp hc
  rw [hexec, whileUp_down hdown]

/-- No command of the reset line writes a word. -/
theorem ofResetLine_wordWritten {c : Instr} {p : Nat × Word} (hc : wordWritten c = some p) : ofResetLine c = false := by
  cases c with
  | hardwareReset => cases hc
  | resetNRelease straps => cases hc
  | _ => rfl

/-- Every command answers a next state with the queue as it was: one that writes a word as its word does. -/
theorem exec_pending (c : Instr) (s : State) : ∃ t, exec c s = .next t ∧ t.pending = s.pending := by
  cases hc : wordWritten c with
  | none => exact exec_event_pending hc s
  | some p =>
    cases hr : s.resetN with
    | true => exact ⟨_, exec_wordWritten hc hr, handWord_pending _ _ _ _⟩
    | false => exact ⟨s, exec_down (ofResetLine_wordWritten hc) hr, rfl⟩

/-- Settles O3: words and events leave the queue, and only the reset line acts while RESET_N is low. -/
theorem everyCommandAnswersNext : Obligations.EveryCommandAnswersNext := by
  refine fun c s => ⟨exec_pending c s, fun hdown hreset hrelease => exec_down ?_ hdown⟩
  cases c with
  | hardwareReset => exact absurd rfl hreset
  | resetNRelease straps => exact absurd rfl (hrelease straps)
  | _ => rfl

end Sys2Proof.TransactionPath
end

section
/-! SUPPORT. The conditions that the part computes from its state: the notice causes, NOTICE_N and motion hold (R121,
R133, R139, R180). -/

namespace Sys2Proof.ControlAperture

open Sys2Proof Sys2Proof.Machine Sys2Proof.Safety Sys2Proof.VerdictRing Sys2Proof.StimulusGuard

/-! ### Trips (R133) -/

/-- A latched set is non-empty where it holds one of its three kinds (R133). -/
theorem nonempty_iff (t : TripSet) :
    TripSet.nonempty t = true ↔ t.overI = true ∨ t.overV = true ∨ t.overP = true := by
  rw [TripSet.nonempty, Bool.or_eq_true, Bool.or_eq_true, or_assoc]

/-! ### The notice causes (R180) -/

/-- The GUARD cause holds while some source has a trip. -/
theorem anyTrip_iff (s : State) : s.anyTrip = true ↔
    ∃ src : SrcNo, (s.src src).trips.overI = true ∨ (s.src src).trips.overV = true ∨
      (s.src src).trips.overP = true := by
  simp only [State.anyTrip, List.any_eq_true, mem_allSources, true_and, nonempty_iff]

/-- The FLAGS cause holds while one of the seven device flags is set. -/
theorem anyFlag_iff (f : DeviceFlags) : DeviceFlags.any f = true ↔
    f.apertureMisuse = true ∨ f.configRefused = true ∨ f.commitRejected = true ∨ f.bandConfig = true ∨
      f.monSequence = true ∨ f.consumerRefused = true ∨ f.drained = true := by
  simp only [DeviceFlags.any, Bool.or_eq_true, or_assoc]

/-- The RING cause is the ring level reached (R121). -/
theorem causes_ring_iff (s : State) : (State.causes s).ring = true ↔
    s.writer.ringLevel.toNat ≠ 0 ∧ s.writer.ringLevel.toNat ≤ fillOf s.writer := levelReached_iff s.writer

/-- The WRITER_FAULT cause holds while the writer is in FAULT. -/
theorem causes_writerFault_iff (s : State) : (State.causes s).writerFault = true ↔ s.writer.state = .fault :=
  beq_iff_eq

/-! ### NOTICE_N (R180) -/

/-- NOTICE_N is low while one of the four causes holds with its enable. -/
theorem noticeAsserted_iff (s : State) : s.noticeAsserted = true ↔
    s.notice.ring = true ∧ (State.causes s).ring = true ∨ s.notice.guard = true ∧ (State.causes s).guard = true ∨
      s.notice.writerFault = true ∧ (State.causes s).writerFault = true ∨
      s.notice.flags = true ∧ (State.causes s).flags = true := by
  simp only [State.noticeAsserted, Bool.or_eq_true, Bool.and_eq_true, or_assoc, and_comm]

/-- Settles O55: each enabled cause is read as its condition, and motion hold as the trips of the sources that hold. -/
theorem noticeAndHoldFollowTheirConditions : Obligations.NoticeAndHoldFollowTheirConditions := by
  intro s ring tripped f flagged
  have hring : (State.causes s).ring = true ↔ ring := causes_ring_iff s
  have hguard : (State.causes s).guard = true ↔ ∃ src, tripped src := anyTrip_iff s
  have hflags : (State.causes s).flags = true ↔ flagged := anyFlag_iff f
  constructor
  · rw [noticeAsserted_iff, hring, hguard, causes_writerFault_iff, hflags]
  · rw [holdEngaged_iff]
    exact exists_congr fun src => and_congr_right' (nonempty_iff (s.src src).trips)

end Sys2Proof.ControlAperture
end

section
/-! SUPPORT. The words of a step entry and of a verdict record: the bits of a word as numbers, the fields that each word
carries, and the codes of a record (R3, R4, 10.1, 10.3). -/

namespace Sys2Proof.RecordAndWordLayouts

open Sys2Proof Sys2Proof.Machine Sys2Proof.MeasurementPlan

/-! ### The bits of a word -/

theorem bits_toNat (v : Word) (low len : Nat) : (v.extractLsb' low len).toNat = v.toNat / 2 ^ low % 2 ^ len := by
  rw [BitVec.extractLsb'_toNat, Nat.shiftRight_eq_div_pow]

theorem lowBits_toNat (v : Word) (len : Nat) : (v.extractLsb' 0 len).toNat = v.toNat % 2 ^ len := by
  rw [bits_toNat, pow_zero, Nat.div_one]

/-- The bits from `low` up to the top of the word. -/
theorem highBits_toNat (v : Word) {low len : Nat} (h : low + len = 32) :
    (v.extractLsb' low len).toNat = v.toNat / 2 ^ low := by
  have hlt : v.toNat < 2 ^ low * 2 ^ len := by rw [← pow_add, h]; exact v.isLt
  rw [bits_toNat, Nat.mod_eq_of_lt (Nat.div_lt_of_lt_mul hlt)]

/-! ### The words of an entry (10.1) -/

section
variable (h : HostFields) (v : Word)

/-- The limit mode of word 0 is the mode of its bits 6:5. -/
theorem take_zero_limitMode : (HostFields.take h 0 v).limitMode =
    match v.toNat / 32 % 4 with
    | 0 => .fixed
    | 1 => .learn
    | 2 => .lowOnly
    | _ => .highOnly := by
  have hbits : (v.extractLsb' 5 2).toNat = v.toNat / 32 % 4 := bits_toNat v 5 2
  rw [← hbits]
  rfl

/-- The chain policy of word 0 is the policy of its bits 13:12. -/
theorem take_zero_policy : (HostFields.take h 0 v).policy =
    match v.toNat / 4096 % 4 with
    | 0 => .never
    | 1 => .onPass
    | 2 => .always
    | _ => .code3 := by
  have hbits : (v.extractLsb' 12 2).toNat = v.toNat / 4096 % 4 := bits_toNat v 12 2
  rw [← hbits]
  rfl

end

/-! ### The words of a verdict record (10.3) -/

theorem verdictCode_code_le (o : VerdictCode) : VerdictCode.code o ≤ 13 := by cases o <;> decide

/-- Word 1 of a record holds its nine fields one above the other. -/
theorem word1_packs (v : Verdict) : Packs (Verdict.word1 v) 30
    (v.step.toNat + 2 ^ 13 * v.channel.val + 2 ^ 16 * VerdictCode.code v.outcome + 2 ^ 20 * v.retries.toNat +
      2 ^ 24 * Band.code v.band + 2 ^ 26 * v.stale.toNat + 2 ^ 27 * v.repeated.toNat + 2 ^ 28 * v.noBoard.toNat +
      2 ^ 29 * v.carried.toNat) :=
  have houtcome : VerdictCode.code v.outcome < 2 ^ 4 := (verdictCode_code_le _).trans_lt (by decide)
  (packs_field v.step.isLt (by decide)).field (m := 3) (by decide) v.channel.isLt (by decide)
    |>.field (by decide) houtcome (by decide)
    |>.field (by decide) v.retries.isLt (by decide)
    |>.field (by decide) (band_code_lt _) (by decide)
    |>.flagBit _ (by decide) (by decide)
    |>.flagBit _ (by decide) (by decide)
    |>.flagBit _ (by decide) (by decide)
    |>.flagBit _ (by decide) (by decide)

/-- Settles O9: a word's fields are read off its bits, and a record's words are its fields packed upward. -/
theorem entryAndRecordLayouts : Obligations.EntryAndRecordLayouts := by
  refine ⟨fun h v => ⟨?word0, ?word1, rfl, rfl, rfl, rfl, rfl, rfl⟩, fun v sequence => ?record, by decide, by decide⟩
  case word0 =>
    exact ⟨lowBits_toNat v 3, bits_toNat v 3 2, take_zero_limitMode h v, bits_toNat v 8 4, take_zero_policy h v,
      bits_toNat v 16 4, bits_toNat v 20 3, highBits_toNat v (by decide), rfl⟩
  case word1 => exact ⟨lowBits_toNat v 16, highBits_toNat v (by decide), rfl⟩
  case record =>
    exact ⟨append_toNat v.board sequence, (word1_packs v).toNat_eq, rfl, append_toNat v.elapsed v.spread,
      verdictCode_code_le _⟩

end Sys2Proof.RecordAndWordLayouts
end

section
/-! SUPPORT. The learn tolerance: how derivation reads it, which qualifications derive, and what each shows of it
(R90, R91, R96, R97, R184). -/

namespace Sys2Proof.RecordAndWordLayouts

open Sys2Proof Sys2Proof.Machine Sys2Proof.MeasurementPlan Sys2Proof.BoardLearning Sys2Proof.Qualification

/-! ### The tolerance at derivation (R97, R184) -/

section
variable {t t' : Word}

theorem toleranceUsed_of_le (h : t.toNat ≤ 1000000) : toleranceUsed t = t.toNat := min_eq_left h

theorem toleranceUsed_of_lt (h : 1000000 < t.toNat) : toleranceUsed t = 1000000 := min_eq_right h.le

/-- A tolerance above 1,000,000 is used as 1,000,000 is. -/
theorem toleranceUsed_large (h : 1000000 < t.toNat) : toleranceUsed t = toleranceUsed 1000000#32 :=
  toleranceUsed_of_lt h

variable (r : LearnRecord) (learnFloor : Word)

/-- A tolerance used as it stands enters the relative margin as it stands. -/
theorem margin_of_le (h : t.toNat ≤ 1000000) : LearnRecord.margin r t learnFloor =
    max ((LearnRecord.mean r).natAbs * t.toNat / 1000000) learnFloor.toNat := by
  rw [LearnRecord.margin, toleranceUsed_of_le h]

/-- A tolerance used as 1,000,000 makes the relative margin the magnitude of the mean. -/
theorem margin_of_lt (h : 1000000 < t.toNat) : LearnRecord.margin r t learnFloor =
    max (LearnRecord.mean r).natAbs learnFloor.toNat := by
  rw [LearnRecord.margin, toleranceUsed_of_lt h, Nat.mul_div_cancel _ (by decide)]

/-- Derivation reads a tolerance only as it is used. -/
theorem derive_congr (h : toleranceUsed t = toleranceUsed t') :
    LearnRecord.derive r t learnFloor = LearnRecord.derive r t' learnFloor := by
  rw [LearnRecord.derive, LearnRecord.derive, LearnRecord.margin, LearnRecord.margin, h]

end

/-! ### The qualifications that derive (R91, R96) -/

section
variable {r : LearnRecord} {v : Int} {board : BitVec 16} {k : Nat} (tolerance learnFloor : Word)

/-- The value that brings the count to K derives the limits (R96). -/
theorem learn_at_target (h : r.count + 1 = k) : LearnRecord.learn r v board k tolerance learnFloor =
    LearnRecord.derive (LearnRecord.add r v board) tolerance learnFloor := if_pos h

/-- Any other value is added, and the tolerance is not read (R96). -/
theorem learn_off_target (h : r.count + 1 ≠ k) : LearnRecord.learn r v board k tolerance learnFloor =
    LearnRecord.add r v board := if_neg h

end

/-- A snapshot with another learn tolerance. -/
def withTolerance (sn : Snapshot) (t : Word) : Snapshot := { sn with host := { sn.host with tolerance := t } }

/-- The value is one that the entry learns: a board is open, and the value is plausible and no repeat (R93 to R96). -/
def Learns (s : State) (sn : Snapshot) (v : Int) : Prop :=
  s.boardOpen = true ∧ (sn.host.lowLimit.toInt ≤ v ∧ v ≤ sn.host.highLimit.toInt) ∧
    ¬ (1 ≤ (s.entry sn.step.toNat).learn.count ∧ (s.entry sn.step.toNat).learn.lastBoard = s.board)

/-- The qualification begins with lazy derivation (R91). -/
def DerivesLazily (s : State) (sn : Snapshot) : Prop :=
  sn.host.limitMode = .learn ∧ sn.generation = (s.entry sn.step.toNat).generation ∧
    (s.entry sn.step.toNat).learn.derived = false ∧ s.learnTarget.toNat ≤ (s.entry sn.step.toNat).learn.count

/-- The qualification learns the value that brings the count to K, and so derives (R96). -/
def DerivesAtTarget (s : State) (sn : Snapshot) (v : Int) : Prop :=
  sn.host.limitMode = .learn ∧ sn.generation = (s.entry sn.step.toNat).generation ∧
    (s.entry sn.step.toNat).learn.derived = false ∧ (s.entry sn.step.toNat).learn.count < s.learnTarget.toNat ∧
    Learns s sn v ∧ (s.entry sn.step.toNat).learn.count + 1 = s.learnTarget.toNat

section
variable {s : State} {sn : Snapshot} {v : Int}

/-- Lazy derivation judges the value against the limits that it derives (R91, R92). -/
theorem qualify_derivesLazily (h : DerivesLazily s sn) :
    let d := LearnRecord.derive (s.entry sn.step.toNat).learn sn.host.tolerance sn.host.learnFloor
    qualify s sn v = judgedAs (judgeBoth v d.derivedLow.toInt d.derivedHigh.toInt) false d := by
  obtain ⟨hm, hgen, hd, hcount⟩ := h
  rw [qualify_learn_fresh hm hgen, qualifyLearn, lazy_eq, if_pos ⟨hd, hcount⟩]
  exact qualifyStages_derived rfl

/-- Where lazy derivation does not act, the other stages see the entry's own record (R91). -/
theorem qualify_not_lazily (hm : sn.host.limitMode = .learn)
    (hgen : sn.generation = (s.entry sn.step.toNat).generation) (hlazy : ¬ DerivesLazily s sn) :
    qualify s sn v =
      qualifyStages (s.entry sn.step.toNat).learn sn.host s.boardOpen s.board s.learnTarget.toNat v := by
  rw [qualify_learn_fresh hm hgen, qualifyLearn, lazy_eq, if_neg fun hd => hlazy ⟨hm, hgen, hd⟩]

/-- A value that is learned is added to the record, which is derived when the count has reached K (R96). -/
theorem qualifyStages_learns (hd : (s.entry sn.step.toNat).learn.derived = false) (hlearns : Learns s sn v) :
    qualifyStages (s.entry sn.step.toNat).learn sn.host s.boardOpen s.board s.learnTarget.toNat v =
      judgedAs .learned false (LearnRecord.learn (s.entry sn.step.toNat).learn v s.board s.learnTarget.toNat
        sn.host.tolerance sn.host.learnFloor) := by
  obtain ⟨hopen, hin, hnew⟩ := hlearns
  rw [hopen, qualifyStages_plausible hd hin, if_neg hnew]

theorem qualify_derivesAtTarget (h : DerivesAtTarget s sn v) : qualify s sn v =
    judgedAs .learned false (LearnRecord.derive (LearnRecord.add (s.entry sn.step.toNat).learn v s.board)
      sn.host.tolerance sn.host.learnFloor) := by
  obtain ⟨hm, hgen, hd, hless, hlearns, hcount⟩ := h
  have hlazy : ¬ DerivesLazily s sn := fun ⟨_, _, _, hle⟩ => absurd hle (by omega)
  rw [qualify_not_lazily hm hgen hlazy, qualifyStages_learns hd hlearns, learn_at_target _ _ hcount]

/-- A record that is not derived, with a value that is not learned, is left by a stage that reads no tolerance
(R93 to R95). -/
theorem qualifyStages_not_learns (hd : (s.entry sn.step.toNat).learn.derived = false) (hlearns : ¬ Learns s sn v)
    (t : Word) :
    qualifyStages (s.entry sn.step.toNat).learn (withTolerance sn t).host s.boardOpen s.board s.learnTarget.toNat v =
      qualifyStages (s.entry sn.step.toNat).learn sn.host s.boardOpen s.board s.learnTarget.toNat v := by
  cases hopen : s.boardOpen with
  | false => rw [qualifyStages_noBoard hd, qualifyStages_noBoard hd]
  | true =>
    by_cases hin : sn.host.lowLimit.toInt ≤ v ∧ v ≤ sn.host.highLimit.toInt
    · have hrep := not_not.1 fun hnew => hlearns ⟨hopen, hin, hnew⟩
      rw [qualifyStages_plausible (h := (withTolerance sn t).host) hd hin, qualifyStages_plausible hd hin,
        if_pos hrep, if_pos hrep]
    · rw [qualifyStages_implausible (h := (withTolerance sn t).host) hd hin, qualifyStages_implausible hd hin]

/-- The stages past lazy derivation read the tolerance only where they learn the value that brings the count to K
(R92 to R96). -/
theorem qualifyStages_withTolerance
    (hat : (s.entry sn.step.toNat).learn.derived = false → Learns s sn v →
      (s.entry sn.step.toNat).learn.count + 1 ≠ s.learnTarget.toNat) (t : Word) :
    qualifyStages (s.entry sn.step.toNat).learn (withTolerance sn t).host s.boardOpen s.board s.learnTarget.toNat v =
      qualifyStages (s.entry sn.step.toNat).learn sn.host s.boardOpen s.board s.learnTarget.toNat v := by
  cases hd : (s.entry sn.step.toNat).learn.derived with
  | true => rw [qualifyStages_derived hd, qualifyStages_derived hd]
  | false =>
    by_cases hlearns : Learns s sn v
    · have hcount := hat hd hlearns
      calc
        _ = judgedAs .learned false (LearnRecord.learn (s.entry sn.step.toNat).learn v s.board s.learnTarget.toNat t
              sn.host.learnFloor) := qualifyStages_learns (sn := withTolerance sn t) hd hlearns
        _ = judgedAs .learned false (LearnRecord.learn (s.entry sn.step.toNat).learn v s.board s.learnTarget.toNat
              sn.host.tolerance sn.host.learnFloor) := by
          rw [learn_off_target _ _ hcount, learn_off_target _ _ hcount]
        _ = _ := (qualifyStages_learns hd hlearns).symm
    · exact qualifyStages_not_learns hd hlearns t

/-- Only LEARN reads the tolerance (R72, R73, R184). -/
theorem qualify_withTolerance_of_not_learn (hm : sn.host.limitMode ≠ .learn) (t : Word) :
    qualify s (withTolerance sn t) v = qualify s sn v := by
  cases hmode : sn.host.limitMode with
  | fixed => exact (qualify_fixed (sn := withTolerance sn t) hmode).trans (qualify_fixed hmode).symm
  | learn => exact absurd hmode hm
  | lowOnly => exact (qualify_lowOnly (sn := withTolerance sn t) hmode).trans (qualify_lowOnly hmode).symm
  | highOnly => exact (qualify_highOnly (sn := withTolerance sn t) hmode).trans (qualify_highOnly hmode).symm

/-- A qualification that derives nothing is the same for every tolerance (R184). -/
theorem qualify_withTolerance_of_not_derives (hlazy : ¬ DerivesLazily s sn) (hat : ¬ DerivesAtTarget s sn v)
    (t : Word) : qualify s (withTolerance sn t) v = qualify s sn v := by
  by_cases hm : sn.host.limitMode = .learn
  · by_cases hgen : sn.generation = (s.entry sn.step.toNat).generation
    · rw [qualify_not_lazily (sn := withTolerance sn t) hm hgen hlazy, qualify_not_lazily hm hgen hlazy]
      refine qualifyStages_withTolerance (s := s) (sn := sn) (fun hd hlearns hcount => ?_) t
      have hless : (s.entry sn.step.toNat).learn.count < s.learnTarget.toNat := by omega
      exact hat ⟨hm, hgen, hd, hless, hlearns, hcount⟩
    · exact (qualify_learn_stale (sn := withTolerance sn t) hm hgen).trans (qualify_learn_stale hm hgen).symm
  · exact qualify_withTolerance_of_not_learn hm t

/-- Without lazy derivation the outcome reads no tolerance: a value that completes the count is LEARNED (R96). -/
theorem qualify_withTolerance_outcome (hlazy : ¬ DerivesLazily s sn) (t : Word) :
    (qualify s (withTolerance sn t) v).outcome = (qualify s sn v).outcome := by
  by_cases hat : DerivesAtTarget s sn v
  · rw [qualify_derivesAtTarget (sn := withTolerance sn t) hat, qualify_derivesAtTarget hat]
    rfl
  · rw [qualify_withTolerance_of_not_derives hlazy hat t]

/-- Whatever derives, the flags and the rest of the record read no tolerance (R97, R184). -/
theorem qualify_withTolerance_frame (t : Word) :
    let q := qualify s sn v
    let q' := qualify s (withTolerance sn t) v
    q'.stale = q.stale ∧ q'.repeated = q.repeated ∧ q'.noBoard = q.noBoard ∧
      q'.learn = { q.learn with derivedLow := q'.learn.derivedLow, derivedHigh := q'.learn.derivedHigh } := by
  intro q q'
  by_cases hlazy : DerivesLazily s sn
  · have hq : q = _ := qualify_derivesLazily hlazy
    have hq' : q' = _ := qualify_derivesLazily (sn := withTolerance sn t) hlazy
    rw [hq, hq']
    exact ⟨rfl, rfl, rfl, rfl⟩
  · by_cases hat : DerivesAtTarget s sn v
    · have hq : q = _ := qualify_derivesAtTarget hat
      have hq' : q' = _ := qualify_derivesAtTarget (sn := withTolerance sn t) hat
      rw [hq, hq']
      exact ⟨rfl, rfl, rfl, rfl⟩
    · have hq : q' = q := qualify_withTolerance_of_not_derives hlazy hat t
      rw [hq]
      exact ⟨rfl, rfl, rfl, rfl⟩

/-- Two tolerances that derivation uses alike qualify alike (R184). -/
theorem qualify_withTolerance_congr {t t' : Word} (h : toleranceUsed t = toleranceUsed t') :
    qualify s (withTolerance sn t) v = qualify s (withTolerance sn t') v := by
  by_cases hlazy : DerivesLazily s sn
  · have hd := derive_congr (s.entry sn.step.toNat).learn sn.host.learnFloor h
    rw [qualify_derivesLazily (sn := withTolerance sn t) hlazy, qualify_derivesLazily (sn := withTolerance sn t') hlazy]
    simp only [withTolerance, hd]
  · by_cases hat : DerivesAtTarget s sn v
    · rw [qualify_derivesAtTarget (sn := withTolerance sn t) hat,
        qualify_derivesAtTarget (sn := withTolerance sn t') hat]
      exact congrArg _ (derive_congr _ _ h)
    · rw [qualify_withTolerance_of_not_derives hlazy hat t, qualify_withTolerance_of_not_derives hlazy hat t']

end

/-! ### The tolerance as written, and the limits as reported -/

/-- The commit check does not examine the tolerance (R9, R184). -/
theorem passesCommit_tolerance (h : HostFields) (t : Word) :
    HostFields.passesCommit (HostFields.take h 5 t) = HostFields.passesCommit h := rfl

/-- IW6 and IW7 report the derived limits of the entry that the pointer selects (R16). -/
theorem liveWord_derivedLimits {s : State} (h : s.inspect ≠ noStep) :
    s.liveWord 38 = (s.entry s.inspect.toNat).learn.derivedLow ∧
      s.liveWord 39 = (s.entry s.inspect.toNat).learn.derivedHigh :=
  ⟨(liveWord_inspect s 6).trans (inspectWord_selected h 6), (liveWord_inspect s 7).trans (inspectWord_selected h 7)⟩

/-- Settles O38: a qualification reads the tolerance only where it derives, and derivation only as it is used. -/
theorem largeToleranceIsUsedAsOneMillion : Obligations.LargeToleranceIsUsedAsOneMillion := by
  refine ⟨fun t r learnFloor => ?derivation, fun h t => ⟨rfl, passesCommit_tolerance h t⟩, fun n t s hup => ?write,
    fun s sn v t => ?qualification, fun s h => liveWord_derivedLimits h⟩
  case derivation =>
    exact ⟨fun h => ⟨toleranceUsed_of_le h, margin_of_le r learnFloor h⟩,
      fun h => ⟨margin_of_lt r learnFloor h, derive_congr r learnFloor (toleranceUsed_large h)⟩,
      derive_low_toInt r t learnFloor, derive_high_toInt r t learnFloor, rfl⟩
  case write =>
    refine ⟨_, exec_stepWordWrite n 5 t hup, ?_, rfl, rfl⟩
    exact congrArg (fun e : Entry => e.host.tolerance) (setEntry_entry_same _ _ _)
  case qualification =>
    intro e k inside repeats learns lazily atK q q'
    refine ⟨fun hlazy hat => qualify_withTolerance_of_not_derives hlazy hat t, qualify_withTolerance_frame t,
      fun hlazy => qualify_withTolerance_outcome hlazy t, fun hlazy => ?_,
      fun hm => qualify_withTolerance_of_not_learn hm t, fun h => qualify_withTolerance_congr (toleranceUsed_large h)⟩
    have hq' : q' = _ := qualify_derivesLazily (sn := withTolerance sn t) hlazy
    rw [hq']
    rfl

end Sys2Proof.RecordAndWordLayouts
end

section
/-! SUPPORT. The step with a command waiting, beside `ChannelEngines.step_of_no_command` (one command is one step). -/

namespace Sys2Proof.CommandQueue

open Sys2Proof Sys2Proof.Machine

theorem step_of_command {s : State} {c : Instr} {rest : List Instr} (h : s.pending = c :: rest) :
    step s = exec c { s with pending := rest } := by
  unfold step
  rw [h]

/-- Settles O1: the state left to the front command is the one before it was queued. -/
theorem stepRunsTheFrontCommand : Obligations.StepRunsTheFrontCommand := by
  intro c s
  exact step_of_command (s := { s with pending := c :: s.pending }) rfl

end Sys2Proof.CommandQueue
end
